-- ==== Sys2Proof/Word.lean ====
section
/-! DEFINITION. The two word types of the machine (00_scope.md R3, R5): the 8-bit byte and the 16-bit word, which is also an address. -/

namespace Sys2Proof

/-- An 8-bit byte: a memory cell, an accumulator, a device register (R3, R20, R50). -/
abbrev Byte := BitVec 8

/-- A 16-bit value: X, SP, pc, an operand of LDX or CPX (R20). -/
abbrev Word := BitVec 16

/-- A 16-bit byte address 0000 to FFFF; arithmetic on it is modulo 65536 (R50, R60, decision D2). -/
abbrev Addr := BitVec 16

end Sys2Proof
end

