-- ==== Sys2Proof/Syntax.lean ====
section
/-! DEFINITION. The instructions: one constructor per row of spec/opcode_table.json, 197 of them (30_encoding.md R101,
R102), named mnemonic and mode. Operands (R90, R94 to R99): `m` immediate byte, `w` 16-bit immediate or extended
address, `d` direct address byte, `o` unsigned index offset, `r` signed branch offset. -/

namespace Sys2Proof

/-- An instruction of the M6800 instruction set. Every value of every operand is legal (R104). -/
inductive Instr where
  /-- NOP, implied, operation code 01 (R259). -/
  | nop
  /-- TAP, implied, operation code 06 (R296). -/
  | tap
  /-- TPA, implied, operation code 07 (R297). -/
  | tpa
  /-- INX, implied, operation code 08 (R214). -/
  | inx
  /-- DEX, implied, operation code 09 (R212). -/
  | dex
  /-- CLV, implied, operation code 0A (R292). -/
  | clv
  /-- SEV, implied, operation code 0B (R295). -/
  | sev
  /-- CLC, implied, operation code 0C (R290). -/
  | clc
  /-- SEC, implied, operation code 0D (R293). -/
  | sec
  /-- CLI, implied, operation code 0E (R291). -/
  | cli
  /-- SEI, implied, operation code 0F (R294). -/
  | sei
  /-- SBA, implied, operation code 10 (R138). -/
  | sba
  /-- CBA, implied, operation code 11 (R141). -/
  | cba
  /-- TAB, implied, operation code 16 (R186). -/
  | tab
  /-- TBA, implied, operation code 17 (R187). -/
  | tba
  /-- DAA, implied, operation code 19 (R143). -/
  | daa
  /-- ABA, implied, operation code 1B (R134). -/
  | aba
  /-- BRA, relative, operation code 20 (R241). -/
  | bra (r : Byte)
  /-- BHI, relative, operation code 22 (R247). -/
  | bhi (r : Byte)
  /-- BLS, relative, operation code 23 (R249). -/
  | bls (r : Byte)
  /-- BCC, relative, operation code 24 (R242). -/
  | bcc (r : Byte)
  /-- BCS, relative, operation code 25 (R243). -/
  | bcs (r : Byte)
  /-- BNE, relative, operation code 26 (R252). -/
  | bne (r : Byte)
  /-- BEQ, relative, operation code 27 (R244). -/
  | beq (r : Byte)
  /-- BVC, relative, operation code 28 (R253). -/
  | bvc (r : Byte)
  /-- BVS, relative, operation code 29 (R254). -/
  | bvs (r : Byte)
  /-- BPL, relative, operation code 2A (R255). -/
  | bpl (r : Byte)
  /-- BMI, relative, operation code 2B (R251). -/
  | bmi (r : Byte)
  /-- BGE, relative, operation code 2C (R245). -/
  | bge (r : Byte)
  /-- BLT, relative, operation code 2D (R250). -/
  | blt (r : Byte)
  /-- BGT, relative, operation code 2E (R246). -/
  | bgt (r : Byte)
  /-- BLE, relative, operation code 2F (R248). -/
  | ble (r : Byte)
  /-- TSX, implied, operation code 30 (R221). -/
  | tsx
  /-- INS, implied, operation code 31 (R215). -/
  | ins
  /-- PULA, implied, operation code 32 (R185). -/
  | pula
  /-- PULB, implied, operation code 33 (R185). -/
  | pulb
  /-- DES, implied, operation code 34 (R213). -/
  | des
  /-- TXS, implied, operation code 35 (R220). -/
  | txs
  /-- PSHA, implied, operation code 36 (R184). -/
  | psha
  /-- PSHB, implied, operation code 37 (R184). -/
  | pshb
  /-- RTS, implied, operation code 39 (R261). -/
  | rts
  /-- RTI, implied, operation code 3B (R260). -/
  | rti
  /-- WAI, implied, operation code 3E (R263). -/
  | wai
  /-- SWI, implied, operation code 3F (R262). -/
  | swi
  /-- NEGA, accumulator, operation code 40 (R142). -/
  | nega
  /-- COMA, accumulator, operation code 43 (R176). -/
  | coma
  /-- LSRA, accumulator, operation code 44 (R181). -/
  | lsra
  /-- RORA, accumulator, operation code 46 (R178). -/
  | rora
  /-- ASRA, accumulator, operation code 47 (R180). -/
  | asra
  /-- ASLA, accumulator, operation code 48 (R179). -/
  | asla
  /-- ROLA, accumulator, operation code 49 (R177). -/
  | rola
  /-- DECA, accumulator, operation code 4A (R145). -/
  | deca
  /-- INCA, accumulator, operation code 4C (R144). -/
  | inca
  /-- TSTA, accumulator, operation code 4D (R147). -/
  | tsta
  /-- CLRA, accumulator, operation code 4F (R146). -/
  | clra
  /-- NEGB, accumulator, operation code 50 (R142). -/
  | negb
  /-- COMB, accumulator, operation code 53 (R176). -/
  | comb
  /-- LSRB, accumulator, operation code 54 (R181). -/
  | lsrb
  /-- RORB, accumulator, operation code 56 (R178). -/
  | rorb
  /-- ASRB, accumulator, operation code 57 (R180). -/
  | asrb
  /-- ASLB, accumulator, operation code 58 (R179). -/
  | aslb
  /-- ROLB, accumulator, operation code 59 (R177). -/
  | rolb
  /-- DECB, accumulator, operation code 5A (R145). -/
  | decb
  /-- INCB, accumulator, operation code 5C (R144). -/
  | incb
  /-- TSTB, accumulator, operation code 5D (R147). -/
  | tstb
  /-- CLRB, accumulator, operation code 5F (R146). -/
  | clrb
  /-- NEG, indexed, operation code 60 (R142). -/
  | negIdx (o : Byte)
  /-- COM, indexed, operation code 63 (R176). -/
  | comIdx (o : Byte)
  /-- LSR, indexed, operation code 64 (R181). -/
  | lsrIdx (o : Byte)
  /-- ROR, indexed, operation code 66 (R178). -/
  | rorIdx (o : Byte)
  /-- ASR, indexed, operation code 67 (R180). -/
  | asrIdx (o : Byte)
  /-- ASL, indexed, operation code 68 (R179). -/
  | aslIdx (o : Byte)
  /-- ROL, indexed, operation code 69 (R177). -/
  | rolIdx (o : Byte)
  /-- DEC, indexed, operation code 6A (R145). -/
  | decIdx (o : Byte)
  /-- INC, indexed, operation code 6C (R144). -/
  | incIdx (o : Byte)
  /-- TST, indexed, operation code 6D (R147). -/
  | tstIdx (o : Byte)
  /-- JMP, indexed, operation code 6E (R257). -/
  | jmpIdx (o : Byte)
  /-- CLR, indexed, operation code 6F (R146). -/
  | clrIdx (o : Byte)
  /-- NEG, extended, operation code 70 (R142). -/
  | negExt (w : Word)
  /-- COM, extended, operation code 73 (R176). -/
  | comExt (w : Word)
  /-- LSR, extended, operation code 74 (R181). -/
  | lsrExt (w : Word)
  /-- ROR, extended, operation code 76 (R178). -/
  | rorExt (w : Word)
  /-- ASR, extended, operation code 77 (R180). -/
  | asrExt (w : Word)
  /-- ASL, extended, operation code 78 (R179). -/
  | aslExt (w : Word)
  /-- ROL, extended, operation code 79 (R177). -/
  | rolExt (w : Word)
  /-- DEC, extended, operation code 7A (R145). -/
  | decExt (w : Word)
  /-- INC, extended, operation code 7C (R144). -/
  | incExt (w : Word)
  /-- TST, extended, operation code 7D (R147). -/
  | tstExt (w : Word)
  /-- JMP, extended, operation code 7E (R257). -/
  | jmpExt (w : Word)
  /-- CLR, extended, operation code 7F (R146). -/
  | clrExt (w : Word)
  /-- SUBA, immediate, operation code 80 (R137). -/
  | subaImm (m : Byte)
  /-- CMPA, immediate, operation code 81 (R140). -/
  | cmpaImm (m : Byte)
  /-- SBCA, immediate, operation code 82 (R139). -/
  | sbcaImm (m : Byte)
  /-- ANDA, immediate, operation code 84 (R172). -/
  | andaImm (m : Byte)
  /-- BITA, immediate, operation code 85 (R173). -/
  | bitaImm (m : Byte)
  /-- LDAA, immediate, operation code 86 (R182). -/
  | ldaaImm (m : Byte)
  /-- EORA, immediate, operation code 88 (R175). -/
  | eoraImm (m : Byte)
  /-- ADCA, immediate, operation code 89 (R135). -/
  | adcaImm (m : Byte)
  /-- ORAA, immediate, operation code 8A (R174). -/
  | oraaImm (m : Byte)
  /-- ADDA, immediate, operation code 8B (R136). -/
  | addaImm (m : Byte)
  /-- CPX, immediate, operation code 8C (R211). -/
  | cpxImm (w : Word)
  /-- BSR, relative, operation code 8D (R256). -/
  | bsr (r : Byte)
  /-- LDS, immediate, operation code 8E (R217). -/
  | ldsImm (w : Word)
  /-- SUBA, direct, operation code 90 (R137). -/
  | subaDir (d : Byte)
  /-- CMPA, direct, operation code 91 (R140). -/
  | cmpaDir (d : Byte)
  /-- SBCA, direct, operation code 92 (R139). -/
  | sbcaDir (d : Byte)
  /-- ANDA, direct, operation code 94 (R172). -/
  | andaDir (d : Byte)
  /-- BITA, direct, operation code 95 (R173). -/
  | bitaDir (d : Byte)
  /-- LDAA, direct, operation code 96 (R182). -/
  | ldaaDir (d : Byte)
  /-- STAA, direct, operation code 97 (R183). -/
  | staaDir (d : Byte)
  /-- EORA, direct, operation code 98 (R175). -/
  | eoraDir (d : Byte)
  /-- ADCA, direct, operation code 99 (R135). -/
  | adcaDir (d : Byte)
  /-- ORAA, direct, operation code 9A (R174). -/
  | oraaDir (d : Byte)
  /-- ADDA, direct, operation code 9B (R136). -/
  | addaDir (d : Byte)
  /-- CPX, direct, operation code 9C (R211). -/
  | cpxDir (d : Byte)
  /-- LDS, direct, operation code 9E (R217). -/
  | ldsDir (d : Byte)
  /-- STS, direct, operation code 9F (R219). -/
  | stsDir (d : Byte)
  /-- SUBA, indexed, operation code A0 (R137). -/
  | subaIdx (o : Byte)
  /-- CMPA, indexed, operation code A1 (R140). -/
  | cmpaIdx (o : Byte)
  /-- SBCA, indexed, operation code A2 (R139). -/
  | sbcaIdx (o : Byte)
  /-- ANDA, indexed, operation code A4 (R172). -/
  | andaIdx (o : Byte)
  /-- BITA, indexed, operation code A5 (R173). -/
  | bitaIdx (o : Byte)
  /-- LDAA, indexed, operation code A6 (R182). -/
  | ldaaIdx (o : Byte)
  /-- STAA, indexed, operation code A7 (R183). -/
  | staaIdx (o : Byte)
  /-- EORA, indexed, operation code A8 (R175). -/
  | eoraIdx (o : Byte)
  /-- ADCA, indexed, operation code A9 (R135). -/
  | adcaIdx (o : Byte)
  /-- ORAA, indexed, operation code AA (R174). -/
  | oraaIdx (o : Byte)
  /-- ADDA, indexed, operation code AB (R136). -/
  | addaIdx (o : Byte)
  /-- CPX, indexed, operation code AC (R211). -/
  | cpxIdx (o : Byte)
  /-- JSR, indexed, operation code AD (R258). -/
  | jsrIdx (o : Byte)
  /-- LDS, indexed, operation code AE (R217). -/
  | ldsIdx (o : Byte)
  /-- STS, indexed, operation code AF (R219). -/
  | stsIdx (o : Byte)
  /-- SUBA, extended, operation code B0 (R137). -/
  | subaExt (w : Word)
  /-- CMPA, extended, operation code B1 (R140). -/
  | cmpaExt (w : Word)
  /-- SBCA, extended, operation code B2 (R139). -/
  | sbcaExt (w : Word)
  /-- ANDA, extended, operation code B4 (R172). -/
  | andaExt (w : Word)
  /-- BITA, extended, operation code B5 (R173). -/
  | bitaExt (w : Word)
  /-- LDAA, extended, operation code B6 (R182). -/
  | ldaaExt (w : Word)
  /-- STAA, extended, operation code B7 (R183). -/
  | staaExt (w : Word)
  /-- EORA, extended, operation code B8 (R175). -/
  | eoraExt (w : Word)
  /-- ADCA, extended, operation code B9 (R135). -/
  | adcaExt (w : Word)
  /-- ORAA, extended, operation code BA (R174). -/
  | oraaExt (w : Word)
  /-- ADDA, extended, operation code BB (R136). -/
  | addaExt (w : Word)
  /-- CPX, extended, operation code BC (R211). -/
  | cpxExt (w : Word)
  /-- JSR, extended, operation code BD (R258). -/
  | jsrExt (w : Word)
  /-- LDS, extended, operation code BE (R217). -/
  | ldsExt (w : Word)
  /-- STS, extended, operation code BF (R219). -/
  | stsExt (w : Word)
  /-- SUBB, immediate, operation code C0 (R137). -/
  | subbImm (m : Byte)
  /-- CMPB, immediate, operation code C1 (R140). -/
  | cmpbImm (m : Byte)
  /-- SBCB, immediate, operation code C2 (R139). -/
  | sbcbImm (m : Byte)
  /-- ANDB, immediate, operation code C4 (R172). -/
  | andbImm (m : Byte)
  /-- BITB, immediate, operation code C5 (R173). -/
  | bitbImm (m : Byte)
  /-- LDAB, immediate, operation code C6 (R182). -/
  | ldabImm (m : Byte)
  /-- EORB, immediate, operation code C8 (R175). -/
  | eorbImm (m : Byte)
  /-- ADCB, immediate, operation code C9 (R135). -/
  | adcbImm (m : Byte)
  /-- ORAB, immediate, operation code CA (R174). -/
  | orabImm (m : Byte)
  /-- ADDB, immediate, operation code CB (R136). -/
  | addbImm (m : Byte)
  /-- LDX, immediate, operation code CE (R216). -/
  | ldxImm (w : Word)
  /-- SUBB, direct, operation code D0 (R137). -/
  | subbDir (d : Byte)
  /-- CMPB, direct, operation code D1 (R140). -/
  | cmpbDir (d : Byte)
  /-- SBCB, direct, operation code D2 (R139). -/
  | sbcbDir (d : Byte)
  /-- ANDB, direct, operation code D4 (R172). -/
  | andbDir (d : Byte)
  /-- BITB, direct, operation code D5 (R173). -/
  | bitbDir (d : Byte)
  /-- LDAB, direct, operation code D6 (R182). -/
  | ldabDir (d : Byte)
  /-- STAB, direct, operation code D7 (R183). -/
  | stabDir (d : Byte)
  /-- EORB, direct, operation code D8 (R175). -/
  | eorbDir (d : Byte)
  /-- ADCB, direct, operation code D9 (R135). -/
  | adcbDir (d : Byte)
  /-- ORAB, direct, operation code DA (R174). -/
  | orabDir (d : Byte)
  /-- ADDB, direct, operation code DB (R136). -/
  | addbDir (d : Byte)
  /-- LDX, direct, operation code DE (R216). -/
  | ldxDir (d : Byte)
  /-- STX, direct, operation code DF (R218). -/
  | stxDir (d : Byte)
  /-- SUBB, indexed, operation code E0 (R137). -/
  | subbIdx (o : Byte)
  /-- CMPB, indexed, operation code E1 (R140). -/
  | cmpbIdx (o : Byte)
  /-- SBCB, indexed, operation code E2 (R139). -/
  | sbcbIdx (o : Byte)
  /-- ANDB, indexed, operation code E4 (R172). -/
  | andbIdx (o : Byte)
  /-- BITB, indexed, operation code E5 (R173). -/
  | bitbIdx (o : Byte)
  /-- LDAB, indexed, operation code E6 (R182). -/
  | ldabIdx (o : Byte)
  /-- STAB, indexed, operation code E7 (R183). -/
  | stabIdx (o : Byte)
  /-- EORB, indexed, operation code E8 (R175). -/
  | eorbIdx (o : Byte)
  /-- ADCB, indexed, operation code E9 (R135). -/
  | adcbIdx (o : Byte)
  /-- ORAB, indexed, operation code EA (R174). -/
  | orabIdx (o : Byte)
  /-- ADDB, indexed, operation code EB (R136). -/
  | addbIdx (o : Byte)
  /-- LDX, indexed, operation code EE (R216). -/
  | ldxIdx (o : Byte)
  /-- STX, indexed, operation code EF (R218). -/
  | stxIdx (o : Byte)
  /-- SUBB, extended, operation code F0 (R137). -/
  | subbExt (w : Word)
  /-- CMPB, extended, operation code F1 (R140). -/
  | cmpbExt (w : Word)
  /-- SBCB, extended, operation code F2 (R139). -/
  | sbcbExt (w : Word)
  /-- ANDB, extended, operation code F4 (R172). -/
  | andbExt (w : Word)
  /-- BITB, extended, operation code F5 (R173). -/
  | bitbExt (w : Word)
  /-- LDAB, extended, operation code F6 (R182). -/
  | ldabExt (w : Word)
  /-- STAB, extended, operation code F7 (R183). -/
  | stabExt (w : Word)
  /-- EORB, extended, operation code F8 (R175). -/
  | eorbExt (w : Word)
  /-- ADCB, extended, operation code F9 (R135). -/
  | adcbExt (w : Word)
  /-- ORAB, extended, operation code FA (R174). -/
  | orabExt (w : Word)
  /-- ADDB, extended, operation code FB (R136). -/
  | addbExt (w : Word)
  /-- LDX, extended, operation code FE (R216). -/
  | ldxExt (w : Word)
  /-- STX, extended, operation code FF (R218). -/
  | stxExt (w : Word)
  deriving DecidableEq, Repr

end Sys2Proof
end

