-- ==== Sys2Proof/Decode.lean ====
section
/-! DEFINITION. The decoder and the encoder, from the operation-code map of 30_encoding.md R101 and spec/opcode_table.json.
The decoder is total: it answers an instruction or an error by name (R103, R104). -/

namespace Sys2Proof

/-- Why bytes do not decode. `unassigned`: the operation code is one of the 59 of R103 (the machine then refuses,
decision D4: safe). `truncated`: fewer bytes than the operation code asks for (raised by `decode` on a short list only). -/
inductive DecodeError where
  | truncated
  | unassigned (op : Byte)
  deriving DecidableEq, Repr

/-- The three layouts of R90: an instruction, or one that awaits one or two operand bytes. -/
inductive Shape where
  | f1 (i : Instr)
  | f2 (mk : Byte → Instr)
  | f3 (mk : Word → Instr)

/-- A row of the operation-code map: the first byte and what it selects (R101; every mask is FF). -/
structure OpRow where
  op : Nat
  shape : Shape

/-- Row 0x of the map of R101. -/
def opRows0 : List OpRow :=
  [ ⟨0x01, .f1 .nop⟩,
    ⟨0x06, .f1 .tap⟩,
    ⟨0x07, .f1 .tpa⟩,
    ⟨0x08, .f1 .inx⟩,
    ⟨0x09, .f1 .dex⟩,
    ⟨0x0A, .f1 .clv⟩,
    ⟨0x0B, .f1 .sev⟩,
    ⟨0x0C, .f1 .clc⟩,
    ⟨0x0D, .f1 .sec⟩,
    ⟨0x0E, .f1 .cli⟩,
    ⟨0x0F, .f1 .sei⟩ ]

/-- Row 1x of the map of R101. -/
def opRows1 : List OpRow :=
  [ ⟨0x10, .f1 .sba⟩,
    ⟨0x11, .f1 .cba⟩,
    ⟨0x16, .f1 .tab⟩,
    ⟨0x17, .f1 .tba⟩,
    ⟨0x19, .f1 .daa⟩,
    ⟨0x1B, .f1 .aba⟩ ]

/-- Row 2x of the map of R101. -/
def opRows2 : List OpRow :=
  [ ⟨0x20, .f2 .bra⟩,
    ⟨0x22, .f2 .bhi⟩,
    ⟨0x23, .f2 .bls⟩,
    ⟨0x24, .f2 .bcc⟩,
    ⟨0x25, .f2 .bcs⟩,
    ⟨0x26, .f2 .bne⟩,
    ⟨0x27, .f2 .beq⟩,
    ⟨0x28, .f2 .bvc⟩,
    ⟨0x29, .f2 .bvs⟩,
    ⟨0x2A, .f2 .bpl⟩,
    ⟨0x2B, .f2 .bmi⟩,
    ⟨0x2C, .f2 .bge⟩,
    ⟨0x2D, .f2 .blt⟩,
    ⟨0x2E, .f2 .bgt⟩,
    ⟨0x2F, .f2 .ble⟩ ]

/-- Row 3x of the map of R101. -/
def opRows3 : List OpRow :=
  [ ⟨0x30, .f1 .tsx⟩,
    ⟨0x31, .f1 .ins⟩,
    ⟨0x32, .f1 .pula⟩,
    ⟨0x33, .f1 .pulb⟩,
    ⟨0x34, .f1 .des⟩,
    ⟨0x35, .f1 .txs⟩,
    ⟨0x36, .f1 .psha⟩,
    ⟨0x37, .f1 .pshb⟩,
    ⟨0x39, .f1 .rts⟩,
    ⟨0x3B, .f1 .rti⟩,
    ⟨0x3E, .f1 .wai⟩,
    ⟨0x3F, .f1 .swi⟩ ]

/-- Row 4x of the map of R101. -/
def opRows4 : List OpRow :=
  [ ⟨0x40, .f1 .nega⟩,
    ⟨0x43, .f1 .coma⟩,
    ⟨0x44, .f1 .lsra⟩,
    ⟨0x46, .f1 .rora⟩,
    ⟨0x47, .f1 .asra⟩,
    ⟨0x48, .f1 .asla⟩,
    ⟨0x49, .f1 .rola⟩,
    ⟨0x4A, .f1 .deca⟩,
    ⟨0x4C, .f1 .inca⟩,
    ⟨0x4D, .f1 .tsta⟩,
    ⟨0x4F, .f1 .clra⟩ ]

/-- Row 5x of the map of R101. -/
def opRows5 : List OpRow :=
  [ ⟨0x50, .f1 .negb⟩,
    ⟨0x53, .f1 .comb⟩,
    ⟨0x54, .f1 .lsrb⟩,
    ⟨0x56, .f1 .rorb⟩,
    ⟨0x57, .f1 .asrb⟩,
    ⟨0x58, .f1 .aslb⟩,
    ⟨0x59, .f1 .rolb⟩,
    ⟨0x5A, .f1 .decb⟩,
    ⟨0x5C, .f1 .incb⟩,
    ⟨0x5D, .f1 .tstb⟩,
    ⟨0x5F, .f1 .clrb⟩ ]

/-- Row 6x of the map of R101. -/
def opRows6 : List OpRow :=
  [ ⟨0x60, .f2 .negIdx⟩,
    ⟨0x63, .f2 .comIdx⟩,
    ⟨0x64, .f2 .lsrIdx⟩,
    ⟨0x66, .f2 .rorIdx⟩,
    ⟨0x67, .f2 .asrIdx⟩,
    ⟨0x68, .f2 .aslIdx⟩,
    ⟨0x69, .f2 .rolIdx⟩,
    ⟨0x6A, .f2 .decIdx⟩,
    ⟨0x6C, .f2 .incIdx⟩,
    ⟨0x6D, .f2 .tstIdx⟩,
    ⟨0x6E, .f2 .jmpIdx⟩,
    ⟨0x6F, .f2 .clrIdx⟩ ]

/-- Row 7x of the map of R101. -/
def opRows7 : List OpRow :=
  [ ⟨0x70, .f3 .negExt⟩,
    ⟨0x73, .f3 .comExt⟩,
    ⟨0x74, .f3 .lsrExt⟩,
    ⟨0x76, .f3 .rorExt⟩,
    ⟨0x77, .f3 .asrExt⟩,
    ⟨0x78, .f3 .aslExt⟩,
    ⟨0x79, .f3 .rolExt⟩,
    ⟨0x7A, .f3 .decExt⟩,
    ⟨0x7C, .f3 .incExt⟩,
    ⟨0x7D, .f3 .tstExt⟩,
    ⟨0x7E, .f3 .jmpExt⟩,
    ⟨0x7F, .f3 .clrExt⟩ ]

/-- Row 8x of the map of R101. -/
def opRows8 : List OpRow :=
  [ ⟨0x80, .f2 .subaImm⟩,
    ⟨0x81, .f2 .cmpaImm⟩,
    ⟨0x82, .f2 .sbcaImm⟩,
    ⟨0x84, .f2 .andaImm⟩,
    ⟨0x85, .f2 .bitaImm⟩,
    ⟨0x86, .f2 .ldaaImm⟩,
    ⟨0x88, .f2 .eoraImm⟩,
    ⟨0x89, .f2 .adcaImm⟩,
    ⟨0x8A, .f2 .oraaImm⟩,
    ⟨0x8B, .f2 .addaImm⟩,
    ⟨0x8C, .f3 .cpxImm⟩,
    ⟨0x8D, .f2 .bsr⟩,
    ⟨0x8E, .f3 .ldsImm⟩ ]

/-- Row 9x of the map of R101. -/
def opRows9 : List OpRow :=
  [ ⟨0x90, .f2 .subaDir⟩,
    ⟨0x91, .f2 .cmpaDir⟩,
    ⟨0x92, .f2 .sbcaDir⟩,
    ⟨0x94, .f2 .andaDir⟩,
    ⟨0x95, .f2 .bitaDir⟩,
    ⟨0x96, .f2 .ldaaDir⟩,
    ⟨0x97, .f2 .staaDir⟩,
    ⟨0x98, .f2 .eoraDir⟩,
    ⟨0x99, .f2 .adcaDir⟩,
    ⟨0x9A, .f2 .oraaDir⟩,
    ⟨0x9B, .f2 .addaDir⟩,
    ⟨0x9C, .f2 .cpxDir⟩,
    ⟨0x9E, .f2 .ldsDir⟩,
    ⟨0x9F, .f2 .stsDir⟩ ]

/-- Row Ax of the map of R101. -/
def opRowsA : List OpRow :=
  [ ⟨0xA0, .f2 .subaIdx⟩,
    ⟨0xA1, .f2 .cmpaIdx⟩,
    ⟨0xA2, .f2 .sbcaIdx⟩,
    ⟨0xA4, .f2 .andaIdx⟩,
    ⟨0xA5, .f2 .bitaIdx⟩,
    ⟨0xA6, .f2 .ldaaIdx⟩,
    ⟨0xA7, .f2 .staaIdx⟩,
    ⟨0xA8, .f2 .eoraIdx⟩,
    ⟨0xA9, .f2 .adcaIdx⟩,
    ⟨0xAA, .f2 .oraaIdx⟩,
    ⟨0xAB, .f2 .addaIdx⟩,
    ⟨0xAC, .f2 .cpxIdx⟩,
    ⟨0xAD, .f2 .jsrIdx⟩,
    ⟨0xAE, .f2 .ldsIdx⟩,
    ⟨0xAF, .f2 .stsIdx⟩ ]

/-- Row Bx of the map of R101. -/
def opRowsB : List OpRow :=
  [ ⟨0xB0, .f3 .subaExt⟩,
    ⟨0xB1, .f3 .cmpaExt⟩,
    ⟨0xB2, .f3 .sbcaExt⟩,
    ⟨0xB4, .f3 .andaExt⟩,
    ⟨0xB5, .f3 .bitaExt⟩,
    ⟨0xB6, .f3 .ldaaExt⟩,
    ⟨0xB7, .f3 .staaExt⟩,
    ⟨0xB8, .f3 .eoraExt⟩,
    ⟨0xB9, .f3 .adcaExt⟩,
    ⟨0xBA, .f3 .oraaExt⟩,
    ⟨0xBB, .f3 .addaExt⟩,
    ⟨0xBC, .f3 .cpxExt⟩,
    ⟨0xBD, .f3 .jsrExt⟩,
    ⟨0xBE, .f3 .ldsExt⟩,
    ⟨0xBF, .f3 .stsExt⟩ ]

/-- Row Cx of the map of R101. -/
def opRowsC : List OpRow :=
  [ ⟨0xC0, .f2 .subbImm⟩,
    ⟨0xC1, .f2 .cmpbImm⟩,
    ⟨0xC2, .f2 .sbcbImm⟩,
    ⟨0xC4, .f2 .andbImm⟩,
    ⟨0xC5, .f2 .bitbImm⟩,
    ⟨0xC6, .f2 .ldabImm⟩,
    ⟨0xC8, .f2 .eorbImm⟩,
    ⟨0xC9, .f2 .adcbImm⟩,
    ⟨0xCA, .f2 .orabImm⟩,
    ⟨0xCB, .f2 .addbImm⟩,
    ⟨0xCE, .f3 .ldxImm⟩ ]

/-- Row Dx of the map of R101. -/
def opRowsD : List OpRow :=
  [ ⟨0xD0, .f2 .subbDir⟩,
    ⟨0xD1, .f2 .cmpbDir⟩,
    ⟨0xD2, .f2 .sbcbDir⟩,
    ⟨0xD4, .f2 .andbDir⟩,
    ⟨0xD5, .f2 .bitbDir⟩,
    ⟨0xD6, .f2 .ldabDir⟩,
    ⟨0xD7, .f2 .stabDir⟩,
    ⟨0xD8, .f2 .eorbDir⟩,
    ⟨0xD9, .f2 .adcbDir⟩,
    ⟨0xDA, .f2 .orabDir⟩,
    ⟨0xDB, .f2 .addbDir⟩,
    ⟨0xDE, .f2 .ldxDir⟩,
    ⟨0xDF, .f2 .stxDir⟩ ]

/-- Row Ex of the map of R101. -/
def opRowsE : List OpRow :=
  [ ⟨0xE0, .f2 .subbIdx⟩,
    ⟨0xE1, .f2 .cmpbIdx⟩,
    ⟨0xE2, .f2 .sbcbIdx⟩,
    ⟨0xE4, .f2 .andbIdx⟩,
    ⟨0xE5, .f2 .bitbIdx⟩,
    ⟨0xE6, .f2 .ldabIdx⟩,
    ⟨0xE7, .f2 .stabIdx⟩,
    ⟨0xE8, .f2 .eorbIdx⟩,
    ⟨0xE9, .f2 .adcbIdx⟩,
    ⟨0xEA, .f2 .orabIdx⟩,
    ⟨0xEB, .f2 .addbIdx⟩,
    ⟨0xEE, .f2 .ldxIdx⟩,
    ⟨0xEF, .f2 .stxIdx⟩ ]

/-- Row Fx of the map of R101. -/
def opRowsF : List OpRow :=
  [ ⟨0xF0, .f3 .subbExt⟩,
    ⟨0xF1, .f3 .cmpbExt⟩,
    ⟨0xF2, .f3 .sbcbExt⟩,
    ⟨0xF4, .f3 .andbExt⟩,
    ⟨0xF5, .f3 .bitbExt⟩,
    ⟨0xF6, .f3 .ldabExt⟩,
    ⟨0xF7, .f3 .stabExt⟩,
    ⟨0xF8, .f3 .eorbExt⟩,
    ⟨0xF9, .f3 .adcbExt⟩,
    ⟨0xFA, .f3 .orabExt⟩,
    ⟨0xFB, .f3 .addbExt⟩,
    ⟨0xFE, .f3 .ldxExt⟩,
    ⟨0xFF, .f3 .stxExt⟩ ]

/-- The 197 rows of the map of R101, in ascending order of the operation code. -/
def opTable : List OpRow :=
  opRows0 ++ opRows1 ++ opRows2 ++ opRows3 ++ opRows4 ++ opRows5 ++ opRows6 ++ opRows7 ++ opRows8 ++ opRows9 ++ opRowsA ++ opRowsB ++ opRowsC ++ opRowsD ++ opRowsE ++ opRowsF

/-- The first row of a table whose operation code is `n`. -/
def lookupOp : List OpRow → Nat → Option Shape
  | [], _ => none
  | row :: rest, n => if row.op = n then some row.shape else lookupOp rest n

/-- What the first byte of an instruction selects; it alone decides (R90, R104). -/
def decodeOp (op : Byte) : Except DecodeError Shape :=
  match lookupOp opTable op.toNat with
  | some shape => .ok shape
  | none => .error (.unassigned op)

/-- The instruction at the head of a list of bytes, with the bytes after it (R90, R92). In format F3 the first operand
byte is the high-order one. -/
def decode : List Byte → Except DecodeError (Instr × List Byte)
  | [] => .error .truncated
  | op :: rest =>
    match decodeOp op with
    | .error e => .error e
    | .ok (.f1 i) => .ok (i, rest)
    | .ok (.f2 mk) =>
      match rest with
      | b2 :: rest' => .ok (mk b2, rest')
      | [] => .error .truncated
    | .ok (.f3 mk) =>
      match rest with
      | b2 :: b3 :: rest' => .ok (mk (b2 ++ b3), rest')
      | _ => .error .truncated

/-- The operand bytes of format F3: high-order byte first (R58, R90). -/
def operandBytes (w : Word) : List Byte := [w.extractLsb' 8 8, w.extractLsb' 0 8]

/-- The bytes of an instruction, operation code first (R90, R101). -/
def encode : Instr → List Byte
  | .nop => [0x01]
  | .tap => [0x06]
  | .tpa => [0x07]
  | .inx => [0x08]
  | .dex => [0x09]
  | .clv => [0x0A]
  | .sev => [0x0B]
  | .clc => [0x0C]
  | .sec => [0x0D]
  | .cli => [0x0E]
  | .sei => [0x0F]
  | .sba => [0x10]
  | .cba => [0x11]
  | .tab => [0x16]
  | .tba => [0x17]
  | .daa => [0x19]
  | .aba => [0x1B]
  | .bra r => [0x20, r]
  | .bhi r => [0x22, r]
  | .bls r => [0x23, r]
  | .bcc r => [0x24, r]
  | .bcs r => [0x25, r]
  | .bne r => [0x26, r]
  | .beq r => [0x27, r]
  | .bvc r => [0x28, r]
  | .bvs r => [0x29, r]
  | .bpl r => [0x2A, r]
  | .bmi r => [0x2B, r]
  | .bge r => [0x2C, r]
  | .blt r => [0x2D, r]
  | .bgt r => [0x2E, r]
  | .ble r => [0x2F, r]
  | .tsx => [0x30]
  | .ins => [0x31]
  | .pula => [0x32]
  | .pulb => [0x33]
  | .des => [0x34]
  | .txs => [0x35]
  | .psha => [0x36]
  | .pshb => [0x37]
  | .rts => [0x39]
  | .rti => [0x3B]
  | .wai => [0x3E]
  | .swi => [0x3F]
  | .nega => [0x40]
  | .coma => [0x43]
  | .lsra => [0x44]
  | .rora => [0x46]
  | .asra => [0x47]
  | .asla => [0x48]
  | .rola => [0x49]
  | .deca => [0x4A]
  | .inca => [0x4C]
  | .tsta => [0x4D]
  | .clra => [0x4F]
  | .negb => [0x50]
  | .comb => [0x53]
  | .lsrb => [0x54]
  | .rorb => [0x56]
  | .asrb => [0x57]
  | .aslb => [0x58]
  | .rolb => [0x59]
  | .decb => [0x5A]
  | .incb => [0x5C]
  | .tstb => [0x5D]
  | .clrb => [0x5F]
  | .negIdx o => [0x60, o]
  | .comIdx o => [0x63, o]
  | .lsrIdx o => [0x64, o]
  | .rorIdx o => [0x66, o]
  | .asrIdx o => [0x67, o]
  | .aslIdx o => [0x68, o]
  | .rolIdx o => [0x69, o]
  | .decIdx o => [0x6A, o]
  | .incIdx o => [0x6C, o]
  | .tstIdx o => [0x6D, o]
  | .jmpIdx o => [0x6E, o]
  | .clrIdx o => [0x6F, o]
  | .negExt w => 0x70 :: operandBytes w
  | .comExt w => 0x73 :: operandBytes w
  | .lsrExt w => 0x74 :: operandBytes w
  | .rorExt w => 0x76 :: operandBytes w
  | .asrExt w => 0x77 :: operandBytes w
  | .aslExt w => 0x78 :: operandBytes w
  | .rolExt w => 0x79 :: operandBytes w
  | .decExt w => 0x7A :: operandBytes w
  | .incExt w => 0x7C :: operandBytes w
  | .tstExt w => 0x7D :: operandBytes w
  | .jmpExt w => 0x7E :: operandBytes w
  | .clrExt w => 0x7F :: operandBytes w
  | .subaImm m => [0x80, m]
  | .cmpaImm m => [0x81, m]
  | .sbcaImm m => [0x82, m]
  | .andaImm m => [0x84, m]
  | .bitaImm m => [0x85, m]
  | .ldaaImm m => [0x86, m]
  | .eoraImm m => [0x88, m]
  | .adcaImm m => [0x89, m]
  | .oraaImm m => [0x8A, m]
  | .addaImm m => [0x8B, m]
  | .cpxImm w => 0x8C :: operandBytes w
  | .bsr r => [0x8D, r]
  | .ldsImm w => 0x8E :: operandBytes w
  | .subaDir d => [0x90, d]
  | .cmpaDir d => [0x91, d]
  | .sbcaDir d => [0x92, d]
  | .andaDir d => [0x94, d]
  | .bitaDir d => [0x95, d]
  | .ldaaDir d => [0x96, d]
  | .staaDir d => [0x97, d]
  | .eoraDir d => [0x98, d]
  | .adcaDir d => [0x99, d]
  | .oraaDir d => [0x9A, d]
  | .addaDir d => [0x9B, d]
  | .cpxDir d => [0x9C, d]
  | .ldsDir d => [0x9E, d]
  | .stsDir d => [0x9F, d]
  | .subaIdx o => [0xA0, o]
  | .cmpaIdx o => [0xA1, o]
  | .sbcaIdx o => [0xA2, o]
  | .andaIdx o => [0xA4, o]
  | .bitaIdx o => [0xA5, o]
  | .ldaaIdx o => [0xA6, o]
  | .staaIdx o => [0xA7, o]
  | .eoraIdx o => [0xA8, o]
  | .adcaIdx o => [0xA9, o]
  | .oraaIdx o => [0xAA, o]
  | .addaIdx o => [0xAB, o]
  | .cpxIdx o => [0xAC, o]
  | .jsrIdx o => [0xAD, o]
  | .ldsIdx o => [0xAE, o]
  | .stsIdx o => [0xAF, o]
  | .subaExt w => 0xB0 :: operandBytes w
  | .cmpaExt w => 0xB1 :: operandBytes w
  | .sbcaExt w => 0xB2 :: operandBytes w
  | .andaExt w => 0xB4 :: operandBytes w
  | .bitaExt w => 0xB5 :: operandBytes w
  | .ldaaExt w => 0xB6 :: operandBytes w
  | .staaExt w => 0xB7 :: operandBytes w
  | .eoraExt w => 0xB8 :: operandBytes w
  | .adcaExt w => 0xB9 :: operandBytes w
  | .oraaExt w => 0xBA :: operandBytes w
  | .addaExt w => 0xBB :: operandBytes w
  | .cpxExt w => 0xBC :: operandBytes w
  | .jsrExt w => 0xBD :: operandBytes w
  | .ldsExt w => 0xBE :: operandBytes w
  | .stsExt w => 0xBF :: operandBytes w
  | .subbImm m => [0xC0, m]
  | .cmpbImm m => [0xC1, m]
  | .sbcbImm m => [0xC2, m]
  | .andbImm m => [0xC4, m]
  | .bitbImm m => [0xC5, m]
  | .ldabImm m => [0xC6, m]
  | .eorbImm m => [0xC8, m]
  | .adcbImm m => [0xC9, m]
  | .orabImm m => [0xCA, m]
  | .addbImm m => [0xCB, m]
  | .ldxImm w => 0xCE :: operandBytes w
  | .subbDir d => [0xD0, d]
  | .cmpbDir d => [0xD1, d]
  | .sbcbDir d => [0xD2, d]
  | .andbDir d => [0xD4, d]
  | .bitbDir d => [0xD5, d]
  | .ldabDir d => [0xD6, d]
  | .stabDir d => [0xD7, d]
  | .eorbDir d => [0xD8, d]
  | .adcbDir d => [0xD9, d]
  | .orabDir d => [0xDA, d]
  | .addbDir d => [0xDB, d]
  | .ldxDir d => [0xDE, d]
  | .stxDir d => [0xDF, d]
  | .subbIdx o => [0xE0, o]
  | .cmpbIdx o => [0xE1, o]
  | .sbcbIdx o => [0xE2, o]
  | .andbIdx o => [0xE4, o]
  | .bitbIdx o => [0xE5, o]
  | .ldabIdx o => [0xE6, o]
  | .stabIdx o => [0xE7, o]
  | .eorbIdx o => [0xE8, o]
  | .adcbIdx o => [0xE9, o]
  | .orabIdx o => [0xEA, o]
  | .addbIdx o => [0xEB, o]
  | .ldxIdx o => [0xEE, o]
  | .stxIdx o => [0xEF, o]
  | .subbExt w => 0xF0 :: operandBytes w
  | .cmpbExt w => 0xF1 :: operandBytes w
  | .sbcbExt w => 0xF2 :: operandBytes w
  | .andbExt w => 0xF4 :: operandBytes w
  | .bitbExt w => 0xF5 :: operandBytes w
  | .ldabExt w => 0xF6 :: operandBytes w
  | .stabExt w => 0xF7 :: operandBytes w
  | .eorbExt w => 0xF8 :: operandBytes w
  | .adcbExt w => 0xF9 :: operandBytes w
  | .orabExt w => 0xFA :: operandBytes w
  | .addbExt w => 0xFB :: operandBytes w
  | .ldxExt w => 0xFE :: operandBytes w
  | .stxExt w => 0xFF :: operandBytes w

/-- How many bytes an instruction takes (R91, R106). -/
def Instr.length (i : Instr) : Nat := (encode i).length

/-- The three bytes of an instruction whose bits are `w`, the first byte in bits 7 to 0; every bit from `nbits` on is 0. -/
def tableBytes (nbits w : Nat) : List Byte :=
  let v := w % 2 ^ nbits
  [BitVec.ofNat 8 v, BitVec.ofNat 8 (v / 256), BitVec.ofNat 8 (v / 65536)]

/-- The instruction the decoder reads from an instruction whose bits are `w`, numbered as spec/opcode_table.json does. -/
def decodeTableWord (nbits w : Nat) : Option Instr :=
  match decode (tableBytes nbits w) with
  | .ok (i, _) => some i
  | .error _ => none

end Sys2Proof
end

