-- ==== Sys2Proof/Machine/Bits.lean ====
section
/-! DEFINITION. Bytes of a word, concatenation and the two extensions of 00_scope.md R4 and R6. -/

namespace Sys2Proof.Machine

/-- `hi(v) = v[15:8]` (R4). -/
def hi (w : Word) : Byte := w.extractLsb' 8 8

/-- `lo(v) = v[7:0]` (R4). -/
def lo (w : Word) : Byte := w.extractLsb' 0 8

/-- `h ++ l`, the high-order byte first (R6, R53). -/
def join (h l : Byte) : Word := h ++ l

/-- `zext_16(v)` (R6): the high byte is 00. -/
def zext16 (v : Byte) : Word := v.setWidth 16

/-- `sext_16(v)` (R6): two's complement widened to 16 bits. -/
def sext16 (v : Byte) : Word := v.signExtend 16

/-- A Boolean as the number 0 or 1 (R5: flags in arithmetic). -/
def bitNat (b : Bool) : Nat := if b then 1 else 0

end Sys2Proof.Machine
end

