-- ==== Sys2Proof/Config.lean ====
section
/-! DEFINITION. What a platform fixes (the types of `MemMap` and of the device wiring, 00_scope.md R3, R67, R68,
R383) and the free values the spec leaves open (93_implementation_defined.md section U). -/

namespace Sys2Proof

/-- What the platform has placed in a region of the address space (R68). An address in no region is unpopulated.
`pia n first` and `acia n first` name the n-th PIA or ACIA of the platform: the lowest address of the region selects
the register at offset `first`, the next one the register after it, so a map of small regions states any wiring of the
register selects to address lines (D1; log 49). `mirror target` is a range of addresses at which the
chip at `target` answers as well, because its chip select leaves address lines undecoded (R380, R383). -/
inductive RegionKind where
  | ram
  | rom
  | pia (n first : Nat)
  | acia (n first : Nat)
  | mirror (target : Nat)
  deriving DecidableEq, Repr

/-- One region of `MemMap`: `size` consecutive addresses from `base` (R67, R383). -/
structure Region where
  base : Nat
  size : Nat
  kind : RegionKind
  deriving DecidableEq, Repr

/-- The parameter `MemMap` of R3 (decision D1): the regions; every other address is unpopulated. -/
abbrev MemMap := List Region

/-- Where a device's interrupt output is wired: the platform decides (R352, R375). -/
inductive Wire where
  | irq
  | nmi
  | unwired
  deriving DecidableEq, Repr

namespace Config

/-- A free byte: the n-th unspecified byte of a run (U1, U2, U7, U8, U13). No value of it can be proved (log 6). -/
opaque freeByte : Nat → Byte

/-- A free 16-bit value (U1, U8; log 6). -/
opaque freeWord : Nat → Word

/-- A free bit or a free choice (U1, U4, U6, U7, U8; log 6). -/
opaque freeBit : Nat → Bool

/-- What a byte of memory reads as when nothing has been stored there (log 3). DESIGN CHOICE, unsafe: the spec leaves
RAM at power-up unspecified (R380) and `RomImage` to the platform (R381). -/
def unlisted : Byte := 0x00

/-- The map at `State.reset` (log 4). DESIGN CHOICE: the PIA, the ACIA and the ROM stand where platform T1 of
95_test_vectors.md Part 3 has them; every other address is RAM, as on platform T0 of Part 2. It meets D1: no address
is in two regions, FFF8 to FFFF are populated and the restart vector is in ROM. -/
def resetMap : MemMap :=
  [ { base := 0x0000, size := 0x8004, kind := .ram },
    { base := 0x8004, size := 4, kind := .pia 0 0 },
    { base := 0x8008, size := 2, kind := .acia 0 0 },
    { base := 0x800A, size := 0x7BF6, kind := .ram },
    { base := 0xFC00, size := 0x0400, kind := .rom } ]

end Config

end Sys2Proof
end

