-- ==== Sys2Proof/Machine/State.lean ====
section
/-! DEFINITION. The state of the machine as plain data: the MPU's programmer's model and run state (10_state.md), the
lines and latches at its pins, and the platform around it (memory, MC6820 PIAs, MC6850 ACIAs, environment). A line of
the hardware that is active low is held as a Boolean that says "low". -/

namespace Sys2Proof.Machine

/-- The bytes of the platform's RAM and ROM: (address, byte) pairs in the canonical form of `Memory.wf`. -/
abbrev Memory := List Host.Cell

/-- The MPU has no synchronous exception but SWI and no access, operand or instruction faults (60_exceptions.md R310):
this type has no constructor, so no step can end in a fault. -/
inductive Fault where
  deriving DecidableEq, Repr

/-- Why a step has no meaning. -/
inductive Refusal where
  /-- An instruction whose meaning is still to be written. Raised by no arm of `exec` in this model. Safe. -/
  | notModelled (mnemonic : String)
  /-- The operation code fetched at `addr` is one of the 59 that the instruction set does not assign (30_encoding.md
  R103, decision D4: "refuse UndefinedOpcode"). Raised by the fetch of a step. Safe: nothing is claimed of it. -/
  | undefinedOpcode (op : Byte) (addr : Addr)
  deriving DecidableEq, Repr

/-- The six flags of the condition code register (10_state.md R26). Bits 7 and 6 of the register hold no state (R27). -/
structure Flags where
  h : Bool
  i : Bool
  n : Bool
  z : Bool
  v : Bool
  c : Bool
  deriving DecidableEq, Repr

/-- The four run states of 10_state.md R38. -/
inductive RunState where
  | running
  | waiting
  | halted
  | reset
  deriving DecidableEq, Repr

/-- One machine cycle as the bus shows it (10_state.md R40, 20_memory.md R52, R65). -/
inductive BusCycle where
  /-- VMA = 1, R/W = 1: a read of `v` at address `a`. -/
  | read (a : Addr) (v : Byte)
  /-- VMA = 1, R/W = 0: a write of `v` at address `a`. -/
  | write (a : Addr) (v : Byte)
  /-- VMA = 0, R/W = 1: no access (R65). `bus` is the internal value on the address bus, none where the spec gives
  none (log 20). The data bus is not recorded: DESIGN CHOICE (log 52), R65 calls the data irrelevant, and only cycle 4
  of PSH is printed with data. -/
  | internal (bus : Option Addr)
  /-- BA = 1, VMA = 0: the MPU is WAITING or HALTED and the address bus, R/W and data bus are high-impedance (R38). -/
  | released
  deriving DecidableEq, Repr

/-- The A side or the B side of a PIA. -/
inductive PiaPort where
  | a
  | b
  deriving DecidableEq, Repr

/-- One side of an MC6820 PIA (60_exceptions.md R342): `out` is ORA or ORB, `ddr` DDRA or DDRB, `ctl` CRA or CRB with
the interrupt flags in bits 7 and 6. `pins` and `loaded` are what the environment puts on PA or PB: levels, and which
output pins it loads so far that their level is no longer the output register's (R345, U12). `c1` and `c2` are the
levels of CA1 and CA2 (CB1, CB2) as driven from outside, `c2out` the level the PIA drives on CA2 or CB2 in an output
mode (R353, R354). `en1`, `en2`: the flag has been re-enabled since it was cleared; `cond1`, `cond2`: the edge network
is conditioned (R351). -/
structure PiaSide where
  out : Byte
  ddr : Byte
  ctl : Byte
  pins : Byte
  loaded : Byte
  c1 : Bool
  c2 : Bool
  c2out : Bool
  en1 : Bool
  en2 : Bool
  cond1 : Bool
  cond2 : Bool
  deriving DecidableEq, Repr

/-- An MC6820 PIA (R340 to R356) and its wiring: where IRQA and IRQB go (R352), and whether its Reset pin is the
system's (R343, R403). `resetLow` is the level of the Reset pin of a PIA that is not on the system's reset, as the
environment drives it (log 48). -/
structure Pia where
  sideA : PiaSide
  sideB : PiaSide
  wireA : Wire
  wireB : Wire
  resetWired : Bool
  resetLow : Bool
  deriving DecidableEq, Repr

/-- An MC6850 ACIA (R360 to R377): control register `ctl`, Transmit Data Register `tdr` with its shift register `tsr`
(none when idle; the character being sent, in the word length of R364), Receive Data Register `rdr` with its shift
register `rsr`, the status bits, the overrun recorded but not yet shown (`ovrnPending`), the overrun and DCD interrupt
conditions with whether the status register has been read since (`ovrnInt`, `ovrnArmed`, `dcdLatch`, `dcdArmed`), the
power-on reset condition `held`, the levels of the CTS and DCD inputs, and where IRQ is wired. -/
structure Acia where
  ctl : Byte
  tdr : Byte
  tsr : Option Byte
  rdr : Byte
  rsr : Byte
  rdrf : Bool
  tdre : Bool
  fe : Bool
  ovrn : Bool
  pe : Bool
  ovrnPending : Bool
  ovrnInt : Bool
  ovrnArmed : Bool
  dcdLatch : Bool
  dcdArmed : Bool
  held : Bool
  cts : Bool
  dcd : Bool
  wire : Wire
  deriving DecidableEq, Repr

/-- What the environment can do between two machine cycles (parameter `Env` of 00_scope.md R3; decisions D12, D18). -/
inductive EnvEvent where
  /-- The environment drives the IRQ line (with the devices, wire-OR; R37, R311). -/
  | irq (low : Bool)
  /-- The environment drives the NMI line (R313). -/
  | nmi (low : Bool)
  /-- The Halt input (R324). -/
  | halt (low : Bool)
  /-- The Reset input (R327, R400). -/
  | reset (low : Bool)
  /-- Another bus master reads, through Halt and BA or through TSC (20_memory.md R71). -/
  | masterRead (a : Addr)
  /-- Another bus master writes (R71). -/
  | masterWrite (a : Addr) (v : Byte)
  /-- TSC is held, or the clock stopped, beyond its limit (R326, U8). -/
  | clockLost
  /-- New levels on the PA or PB lines, and which output pins are overloaded (R342, R345). -/
  | piaPins (n : Nat) (port : PiaPort) (pins loaded : Byte)
  /-- CA1 or CB1 takes a level (R349). -/
  | piaC1 (n : Nat) (port : PiaPort) (level : Bool)
  /-- CA2 or CB2 is driven to a level from outside (R350). -/
  | piaC2 (n : Nat) (port : PiaPort) (level : Bool)
  /-- The Reset pin of a PIA that is not on the system's reset takes a level (R343; log 48). -/
  | piaReset (n : Nat) (low : Bool)
  /-- A character has been received with these error indications (R372, R377, D18). -/
  | aciaReceive (n : Nat) (v : Byte) (fe pe : Bool)
  /-- The idle transmitter takes the character waiting in the Transmit Data Register (R373, R376, D18). -/
  | aciaTake (n : Nat)
  /-- The character in the transmit shift register is complete (R376, D18). -/
  | aciaSent (n : Nat)
  /-- The Clear-to-Send input takes a level (R371). -/
  | aciaCts (n : Nat) (level : Bool)
  /-- The Data Carrier Detect input takes a level (R370). -/
  | aciaDcd (n : Nat) (level : Bool)
  deriving DecidableEq, Repr

/-- The four input lines of the MPU as the environment drives them; `true` is low, the active level (R311, R324). -/
structure Lines where
  irqLow : Bool
  nmiLow : Bool
  haltLow : Bool
  resetLow : Bool
  deriving DecidableEq, Repr

/-- Everything at the MPU's pins: the lines and the latches they set, the memory map and what it maps, the environment,
and the model's own free-value counter and record of the step's machine cycles. -/
structure Board where
  lines : Lines
  /-- `nmi_pending` (10_state.md R36). -/
  nmiPending : Bool
  /-- The NMI line was low when last sampled; the edge of R36 is a change of it. -/
  nmiSeen : Bool
  /-- The IRQ line was low at some time since the MPU halted (R325, decision D10). -/
  irqSeen : Bool
  /-- The machine cycles for which Reset has been low, while a Reset pulse is present or not yet served (R400, R402). -/
  resetFor : Option Nat
  /-- Reset has cut the instruction in progress short (R327, U7). -/
  cut : Bool
  /-- The clock limits have been violated; the MPU's state is lost (R326, U8). -/
  destroyed : Bool
  /-- `MemMap`. -/
  map : MemMap
  /-- The bytes of RAM and ROM, by address; an address not listed holds `Config.unlisted`. -/
  mem : Memory
  pias : List Pia
  acias : List Acia
  /-- `Env`: one batch of events per machine cycle to come; nothing happens after the last. -/
  env : List (List EnvEvent)
  /-- The model's own: the number of the next free value (log 6). -/
  free : Nat
  /-- The model's own: the machine cycles of the present step, in order (log 21). -/
  trace : List BusCycle
  deriving DecidableEq, Repr

/-- The whole machine: the registers of 10_state.md R20, the run state of R38, the IRQ request remembered from a halt
(R325, decision D10), and the board. -/
@[ext]
structure State where
  a : Byte
  b : Byte
  x : Word
  sp : Word
  pc : Addr
  cc : Flags
  run : RunState
  haltIrq : Bool
  board : Board
  deriving DecidableEq, Repr

/-- A PIA side after its Reset (R343) and the two deselected machine cycles of the vector fetch. DESIGN CHOICE for the
inputs (log 24): PA and PB low and unloaded, C1 and C2 high as R343 recommends. -/
def PiaSide.atReset : PiaSide :=
  { out := 0x00, ddr := 0x00, ctl := 0x00, pins := 0x00, loaded := 0x00, c1 := true, c2 := true, c2out := true,
    en1 := true, en2 := true, cond1 := true, cond2 := true }

/-- The PIA of the reset platform, wired as platform T1 of 95_test_vectors.md Part 3 (log 4). -/
def Pia.atReset : Pia :=
  { sideA := PiaSide.atReset, sideB := PiaSide.atReset, wireA := .irq, wireB := .irq, resetWired := true,
    resetLow := false }

/-- The ACIA after power-on: held in its reset condition until software master-resets it (R362, R403). DESIGN CHOICE
for the registers, whose content the spec does not give (log 30). -/
def Acia.atPowerOn : Acia :=
  { ctl := 0x00, tdr := 0x00, tsr := none, rdr := 0x00, rsr := 0x00, rdrf := false, tdre := false, fe := false,
    ovrn := false, pe := false, ovrnPending := false, ovrnInt := false, ovrnArmed := false, dcdLatch := false,
    dcdArmed := false, held := true, cts := false, dcd := false, wire := .irq }

/-- The board after a power-up and the restart sequence: all lines inactive, `nmi_pending` cleared (R41, decision D9),
memory with nothing listed, the platform of log 4, the silent environment of decision D12. -/
def Board.atReset : Board :=
  { lines := { irqLow := false, nmiLow := false, haltLow := false, resetLow := false },
    nmiPending := false, nmiSeen := false, irqSeen := false, resetFor := none, cut := false, destroyed := false,
    map := Config.resetMap, mem := [], pias := [Pia.atReset], acias := [Acia.atPowerOn], env := [], free := 0,
    trace := [] }

/-- The machine right after reset (R41, R400): I set, pc loaded from FFFE and FFFF (both `Config.unlisted` here),
RUNNING. DESIGN CHOICE zero for A, B, X, SP, H, N, Z, V and C, which the spec leaves unspecified (log 1). -/
def State.reset : State :=
  { a := 0x00, b := 0x00, x := 0x0000, sp := 0x0000, pc := Config.unlisted ++ Config.unlisted,
    cc := { h := false, i := true, n := false, z := false, v := false, c := false },
    run := .running, haltIrq := false, board := Board.atReset }

end Sys2Proof.Machine
end

