-- ==== Sys2Proof/Machine/Acia.lean ====
section
/-! DEFINITION. The MC6850 ACIA at the register level (60_exceptions.md R360 to R377). -/

namespace Sys2Proof.Machine

/-- Control bits 1 and 0 select the master reset (R362, R363). -/
def Acia.masterResetSelected (ctl : Byte) : Bool := ctl.getLsbD 1 && ctl.getLsbD 0

/-- The ACIA is maintained in the reset condition: held since power-on, or the master reset is still selected
(R362, R369; log 27). -/
def Acia.inReset (p : Acia) : Bool := p.held || Acia.masterResetSelected p.ctl

/-- The word select asks for seven data bits: CR4 = 0 (R364). -/
def Acia.sevenBits (p : Acia) : Bool := !p.ctl.getLsbD 4

/-- The word select asks for a parity bit: every code but 100 and 101 (R364). -/
def Acia.parityOn (p : Acia) : Bool := !p.ctl.getLsbD 4 || p.ctl.getLsbD 3

/-- The parity selected is odd: CR2 = 1 in the codes with parity (R364). -/
def Acia.oddParity (p : Acia) : Bool := p.parityOn && p.ctl.getLsbD 2

/-- The number of data bits (R364). -/
def Acia.dataBits (p : Acia) : Nat := if p.sevenBits then 7 else 8

/-- The number of stop bits (R364). -/
def Acia.stopBits (p : Acia) : Nat :=
  if p.ctl.getLsbD 4 then (if p.ctl.getLsbD 3 || p.ctl.getLsbD 2 then 1 else 2)
  else (if p.ctl.getLsbD 3 then 1 else 2)

/-- The clock divide ratio, none when the master reset is selected (R363). -/
def Acia.divideRatio (p : Acia) : Option Nat :=
  match p.ctl.getLsbD 1, p.ctl.getLsbD 0 with
  | false, false => some 1
  | false, true => some 16
  | true, false => some 64
  | true, true => none

/-- The transmit interrupt is enabled: CR6 = 0 and CR5 = 1 (R365, conflict C16). -/
def Acia.transmitIrqOn (p : Acia) : Bool := !p.ctl.getLsbD 6 && p.ctl.getLsbD 5

/-- The RTS output is high: CR6 = 1 and CR5 = 0 (R365). DESIGN CHOICE (log 44): it follows the control register also
while the chip is held from power-on, when R362 says only that erroneous output transitions are prevented. -/
def Acia.rtsHigh (p : Acia) : Bool := p.ctl.getLsbD 6 && !p.ctl.getLsbD 5

/-- A break level is transmitted: CR6 = CR5 = 1 (R365). While the chip is held from power-on: as for RTS (log 44). -/
def Acia.sendsBreak (p : Acia) : Bool := p.ctl.getLsbD 6 && p.ctl.getLsbD 5

/-- The receive interrupts are enabled (R366). -/
def Acia.receiveIrqOn (p : Acia) : Bool := p.ctl.getLsbD 7

/-- Status bit 0: RDRF, which a high DCD makes indicate empty (R368). -/
def Acia.rdrfBit (p : Acia) : Bool := p.rdrf && !p.dcd

/-- Status bit 1: TDRE, inhibited by a high CTS and by the reset condition (R369). -/
def Acia.tdreBit (p : Acia) : Bool := p.tdre && !p.cts && !p.inReset

/-- Status bit 2: DCD, latched until cleared, then following the input (R370). -/
def Acia.dcdBit (p : Acia) : Bool := p.dcdLatch || p.dcd

/-- The IRQ output is low (R375); inactive while the chip is held from power-on (U13). -/
def Acia.irqLow (p : Acia) : Bool :=
  !p.held && ((p.transmitIrqOn && p.tdreBit) || (p.receiveIrqOn && (p.rdrfBit || p.ovrnInt || p.dcdLatch)))

/-- Eight status bits as a byte, bit 7 first. -/
def Acia.packBits (b7 b6 b5 b4 b3 b2 b1 b0 : Bool) : Byte :=
  BitVec.ofBool b7 ++ BitVec.ofBool b6 ++ BitVec.ofBool b5 ++ BitVec.ofBool b4 ++ BitVec.ofBool b3 ++
    BitVec.ofBool b2 ++ BitVec.ofBool b1 ++ BitVec.ofBool b0

/-- The Status Register (R367): IRQ, PE, OVRN, FE, CTS, DCD, TDRE, RDRF. -/
def Acia.status (p : Acia) : Byte :=
  Acia.packBits p.irqLow p.pe p.ovrn p.fe p.cts p.dcdBit p.tdreBit p.rdrfBit

/-- The data bits of a byte in the present word length: in the seven-bit modes bit 7 is "don't care" when sent and
stripped when received or read (R364, R374; log 31). -/
def Acia.stripped (p : Acia) (v : Byte) : Byte := if p.sevenBits then v &&& 0x7F else v

/-- The number of ones among the eight bits of a byte is odd. -/
def Acia.onesOdd (v : Byte) : Bool := (List.range 8).foldl (fun odd k => odd ^^ v.getLsbD k) false

/-- The parity bit that goes with the data bits of `v`, none when no parity is selected: it makes the number of ones,
itself included, odd or even as selected (R364, R372, R376). -/
def Acia.parityBit (p : Acia) (v : Byte) : Option Bool :=
  if p.parityOn then some (Acia.onesOdd (p.stripped v) ^^ p.oddParity) else none

/-- The number of bits of a character on the line: start bit, data bits, parity bit, stop bits (R376). -/
def Acia.frameBits (p : Acia) : Nat := 1 + p.dataBits + (if p.parityOn then 1 else 0) + p.stopBits

/-- Reads the Status Register. Before the first master reset the byte is `free` but for an inactive bit 7 (U13;
log 26). The read arms the clearing of the overrun and DCD interrupt conditions that are present (R367). -/
def Acia.readStatus (free : Byte) (p : Acia) : Byte × Acia :=
  if p.held then (free &&& 0x7F, p)
  else (p.status, { p with ovrnArmed := p.ovrnArmed || p.ovrnInt, dcdArmed := p.dcdArmed || p.dcdLatch })

/-- What a read of the Receive Data Register does to an armed interrupt condition (R374). -/
def Acia.clearArmed (p : Acia) : Acia :=
  { p with
      ovrnInt := p.ovrnInt && !p.ovrnArmed
      ovrnArmed := false
      dcdLatch := p.dcdLatch && !p.dcdArmed
      dcdArmed := false }

/-- Reads the Receive Data Register (R374). The first read after a recorded overrun returns the valid character and
shows OVRN, with RDRF still set; otherwise RDRF and OVRN are cleared (R372). -/
def Acia.readData (p : Acia) : Byte × Acia :=
  (p.stripped p.rdr,
    if p.ovrnPending then { p.clearArmed with ovrn := true, ovrnPending := false }
    else { p.clearArmed with rdrf := false, ovrn := false })

/-- The MPU reads: offset 0 the Status Register, offset 1 the Receive Data Register (R360). -/
def Acia.read (free : Byte) (off : Nat) (p : Acia) : Byte × Acia :=
  match off with
  | 0 => p.readStatus free
  | _ => p.readData

/-- The master reset: status cleared but for the external conditions, receiver and transmitter initialised, the
power-on reset released (R362, U13). -/
def Acia.masterReset (p : Acia) : Acia :=
  { p with
      held := false, rdrf := false, tdre := true, fe := false, ovrn := false, pe := false, ovrnPending := false,
      ovrnInt := false, ovrnArmed := false, dcdLatch := false, dcdArmed := false, tsr := none }

/-- Writes the Control Register; both low bits high is the master reset (R362 to R366). -/
def Acia.writeControl (v : Byte) (p : Acia) : Acia :=
  if Acia.masterResetSelected v then Acia.masterReset { p with ctl := v } else { p with ctl := v }

/-- Writes the Transmit Data Register: TDRE goes low (R373). -/
def Acia.writeData (v : Byte) (p : Acia) : Acia := { p with tdr := v, tdre := false }

/-- The MPU writes: offset 0 the Control Register, offset 1 the Transmit Data Register (R360). -/
def Acia.write (off : Nat) (v : Byte) (p : Acia) : Acia :=
  match off with
  | 0 => p.writeControl v
  | _ => p.writeData v

/-- A character has been received (R377): moved to RDR with its errors if RDRF = 0, lost with an overrun recorded if
RDRF = 1 (R372); nothing while DCD is high or in the reset condition. PE is inhibited when no parity is selected; it
belongs to its character and is present as long as that is in RDR (R372). A status read
from before a further lost character still counts (DESIGN CHOICE, log 53). -/
def Acia.receive (v : Byte) (fe pe : Bool) (p : Acia) : Acia :=
  if p.inReset || p.dcd then p
  else
    let q := { p with rsr := p.stripped v }
    if p.rdrf then
      { q with ovrnPending := p.ovrnPending || !p.ovrn, ovrnInt := true, ovrnArmed := p.ovrnArmed && p.ovrnInt }
    else { q with rdr := q.rsr, rdrf := true, fe := fe, pe := pe && p.parityOn }

/-- The idle transmitter takes the data bits of the waiting character: TDRE indicates empty (R364, R369, R373). -/
def Acia.take (p : Acia) : Acia :=
  if !p.inReset && !p.tdre && p.tsr.isNone then { p with tsr := some (p.stripped p.tdr), tdre := true } else p

/-- What the transmitter is sending: the data bits, the first of them bit 0, and the parity bit (R376). DESIGN CHOICE
(log 47): after a change of the word select the character in progress keeps the data bits it was taken with and has the
parity bit of the new selection; R364 does not say what becomes of it. -/
def Acia.sending (p : Acia) : Option (Byte × Option Bool) := p.tsr.map (fun v => (v, p.parityBit v))

/-- The character in the shift register is complete; a waiting one follows it at once (R373, R376). -/
def Acia.sent (p : Acia) : Acia := Acia.take { p with tsr := none }

/-- The Clear-to-Send input takes a level (R371). -/
def Acia.setCts (level : Bool) (p : Acia) : Acia := { p with cts := level }

/-- The receiver is initialised: no overrun is recorded or shown (R370, R377; log 46). The character in RDR with its
error flags stays, since the data is retained (R372, R374). -/
def Acia.initReceiver (p : Acia) : Acia :=
  { p with ovrn := false, ovrnPending := false, ovrnInt := false, ovrnArmed := false }

/-- The Data Carrier Detect input takes a level (R370). Going high initialises the receiver, which stays so because
nothing is received while DCD is high, and latches the condition, in the reset condition as at any other time
(log 27); a status read from before does not count for it (DESIGN CHOICE, log 53). When it goes low again, whether a
full RDR is still indicated is not stated: `free` (R368; log 28). -/
def Acia.setDcd (free : Bool) (level : Bool) (p : Acia) : Acia :=
  if level = p.dcd then p
  else if level then { p.initReceiver with dcd := true, dcdLatch := true, dcdArmed := false }
  else { p with dcd := false, rdrf := p.rdrf && free }

/-- The ACIA holds the given line low (R375). -/
def Acia.holds (w : Wire) (p : Acia) : Bool := decide (p.wire = w) && p.irqLow

end Sys2Proof.Machine
end

