-- ==== Sys2Proof/Machine/AddressMap.lean ====
section
/-! DEFINITION. What the platform's map holds at an address (20_memory.md R67, R68, 60_exceptions.md R383). -/

namespace Sys2Proof

/-- The address lies in the region: the region's chip selects answer to it (R383). -/
def Region.covers (r : Region) (a : Nat) : Bool := decide (r.base ≤ a) && decide (a < r.base + r.size)

/-- The kind of the region in which address `a` lies and the offset in it, or none where nothing is selected (R68).
On a well-formed map at most one region answers. -/
def MemMap.findAt : MemMap → Nat → Option (RegionKind × Nat)
  | [], _ => none
  | r :: rest, a => if r.covers a then some (r.kind, a - r.base) else MemMap.findAt rest a

/-- The address by which the chip selected at `a` knows the byte or register: `a` itself, but for a mirror the address
it repeats. Two addresses with one home are one byte of one memory (R383; log 41). -/
def MemMap.home (m : MemMap) (a : Nat) : Nat :=
  match m.findAt a with
  | some (.mirror target, off) => (target + off) % 65536
  | _ => a

/-- What is at address `a`: the kind of chip selected and the offset of the byte or register in it, or none where
nothing is selected (R68). A mirror answers with what it repeats. -/
def MemMap.regionAt (m : MemMap) (a : Nat) : Option (RegionKind × Nat) := m.findAt (m.home a)

/-- The address is in a RAM region: stores are remembered there (R68, R380). -/
def MemMap.isRam (m : MemMap) (a : Nat) : Bool :=
  match m.regionAt a with
  | some (.ram, _) => true
  | _ => false

/-- The address is in RAM or ROM: a read there returns a memory byte and has no side effect (R68). -/
def MemMap.isMemory (m : MemMap) (a : Nat) : Bool :=
  match m.regionAt a with
  | some (.ram, _) => true
  | some (.rom, _) => true
  | _ => false

/-- The PIA that an access to `a` selects, if any (R340). -/
def MemMap.piaAt (m : MemMap) (a : Nat) : Option Nat :=
  match m.regionAt a with
  | some (.pia n _, _) => some n
  | _ => none

end Sys2Proof
end

