-- ==== Sys2Proof/Machine/Memory.lean ====
section
/-! DEFINITION. RAM and ROM bytes as a list of (address, byte) pairs in one canonical form: addresses strictly rising
and below 65536, no entry equal to what an unlisted address reads as (20_memory.md R50, R68, 60_exceptions.md R380). -/

namespace Sys2Proof.Machine

/-- The byte at an address; `Config.unlisted` where none is listed. -/
def Memory.read : Memory → Nat → Byte
  | [], _ => Config.unlisted
  | cell :: rest, a => if cell.1 = a then cell.2 else Memory.read rest a

/-- Stores a byte and keeps the canonical form: storing `Config.unlisted` removes the entry. -/
def Memory.write : Memory → Nat → Byte → Memory
  | [], a, v => if v = Config.unlisted then [] else [(a, v)]
  | cell :: rest, a, v =>
    if a < cell.1 then
      if v = Config.unlisted then cell :: rest else (a, v) :: cell :: rest
    else if a = cell.1 then
      if v = Config.unlisted then rest else (a, v) :: rest
    else cell :: Memory.write rest a v

/-- The canonical form for the cells at `lo` and above. -/
def Memory.wfFrom : Nat → Memory → Bool
  | _, [] => true
  | lo, cell :: rest =>
    decide (lo ≤ cell.1) && decide (cell.1 < 65536) && decide (cell.2 ≠ Config.unlisted) &&
      Memory.wfFrom (cell.1 + 1) rest

/-- The canonical form: equal memories are equal lists. -/
def Memory.wf (m : Memory) : Bool := Memory.wfFrom 0 m

end Sys2Proof.Machine
end

