-- ==== Sys2Proof/Machine/Pia.lean ====
section
/-! DEFINITION. The MC6820 PIA at the register level (60_exceptions.md R340 to R356). -/

namespace Sys2Proof.Machine

/-- Bit 7 of the control register: the interrupt flag of C1 (R348). -/
def PiaSide.flag1 (p : PiaSide) : Bool := p.ctl.getLsbD 7

/-- Bit 6 of the control register: the interrupt flag of C2 (R348). -/
def PiaSide.flag2 (p : PiaSide) : Bool := p.ctl.getLsbD 6

/-- Bit 5: C2 is an output (R350, R353). -/
def PiaSide.c2IsOutput (p : PiaSide) : Bool := p.ctl.getLsbD 5

/-- Bit 4: the active transition of C2 is positive, or C2 follows bit 3 (R350, R353). -/
def PiaSide.bit4 (p : PiaSide) : Bool := p.ctl.getLsbD 4

/-- Bit 3: the interrupt enable of C2, the strobe select or the output level (R350, R353). -/
def PiaSide.bit3 (p : PiaSide) : Bool := p.ctl.getLsbD 3

/-- Bit 2: the peripheral register is selected, not the direction register (R341). -/
def PiaSide.dataSelected (p : PiaSide) : Bool := p.ctl.getLsbD 2

/-- Bit 1: the active transition of C1 is positive (R349). -/
def PiaSide.c1Rising (p : PiaSide) : Bool := p.ctl.getLsbD 1

/-- Bit 0: the interrupt enable of C1 (R349). -/
def PiaSide.c1Enable (p : PiaSide) : Bool := p.ctl.getLsbD 0

/-- C2 is an output in a handshake or strobe mode: bits 5 and 4 are 1 and 0 (R353, R354). -/
def PiaSide.handshake (p : PiaSide) : Bool := p.c2IsOutput && !p.bit4

/-- The interrupt output of the side is low (R352). -/
def PiaSide.irqLow (p : PiaSide) : Bool :=
  (p.flag1 && p.c1Enable) || (p.flag2 && p.bit3 && !p.c2IsOutput)

/-- The levels read through Peripheral Register A: every bit is the level of its pin; an output pin has the level of
its output register bit unless the environment overloads it (R345, U12). -/
def PiaSide.levelsA (p : PiaSide) : Byte :=
  let driven := p.ddr &&& ~~~p.loaded
  (p.out &&& driven) ||| (p.pins &&& ~~~driven)

/-- The byte read through Peripheral Register B: pins for inputs, the output register for outputs (R346). -/
def PiaSide.levelsB (p : PiaSide) : Byte := (p.out &&& p.ddr) ||| (p.pins &&& ~~~p.ddr)

/-- The levels the PIA drives on the output lines of a side, 0 elsewhere (R344, R347). -/
def PiaSide.driven (p : PiaSide) : Byte := p.out &&& p.ddr

/-- A read of the peripheral register clears both flags; each is to be re-enabled (R351). -/
def PiaSide.clearFlags (p : PiaSide) : PiaSide :=
  { p with ctl := p.ctl &&& 0x3F, en1 := false, en2 := false }

/-- In the handshake and strobe output modes C2 goes low (R353, R354). -/
def PiaSide.c2Fall (p : PiaSide) : PiaSide := if p.handshake then { p with c2out := false } else p

/-- A write of a control register: bits 5 to 0 are stored, the flags are kept (R348). C2 follows bit 3 in the modes
110 and 111; its level when a handshake mode is entered from any other mode is not stated and is `free`, and a write
that keeps the handshake mode keeps it (R353, R354; log 22). Whether the E pulses before a change of the active
transition, or those while C2 was an output, have conditioned the edge network is not stated and is `free` too (R351;
log 50). -/
def PiaSide.writeCtl (free v : Byte) (p : PiaSide) : PiaSide :=
  let level :=
    if v.getLsbD 5 then
      if v.getLsbD 4 then v.getLsbD 3 else if p.handshake && p.bit3 == v.getLsbD 3 then p.c2out else free.getLsbD 0
    else p.c2out
  { p with
      ctl := (p.ctl &&& 0xC0) ||| (v &&& 0x3F)
      c2out := level
      cond1 := p.cond1 || (free.getLsbD 1 && v.getLsbD 1 != p.c1Rising)
      cond2 := if p.c2IsOutput then free.getLsbD 2 else p.cond2 || (free.getLsbD 2 && v.getLsbD 4 != p.bit4) }

/-- Reset zeroes the registers of the side; the lines become inputs (R343). -/
def PiaSide.reset (p : PiaSide) : PiaSide :=
  { p with out := 0x00, ddr := 0x00, ctl := 0x00, c2out := true, en1 := false, en2 := false, cond1 := false,
           cond2 := false }

/-- One E pulse, `selected` when the machine cycle addresses this PIA. A deselected pulse re-enables the flags and ends
the strobe of mode 101; a pulse with the line at its inactive level, as the control register then has it, conditions
the edge network (R351, R353, R354; log 50). -/
def PiaSide.ePulse (selected : Bool) (p : PiaSide) : PiaSide :=
  { p with
      en1 := p.en1 || !selected
      en2 := p.en2 || !selected
      cond1 := p.cond1 || (p.c1 != p.c1Rising)
      cond2 := p.cond2 || (p.c2 != p.bit4)
      c2out := if p.handshake && p.bit3 && !selected then true else p.c2out }

/-- C1 takes a level. An active transition sets flag bit 7 if the flag is enabled and the network conditioned, and in
mode 100 raises C2 (R349, R351, R353, R354). -/
def PiaSide.setC1 (level : Bool) (p : PiaSide) : PiaSide :=
  if level = p.c1 then p
  else
    let q := { p with c1 := level, cond1 := false }
    if level = p.c1Rising && p.en1 && p.cond1 then
      { q with ctl := q.ctl ||| 0x80, c2out := if p.handshake && !p.bit3 then true else q.c2out }
    else q

/-- C2 is driven to a level from outside. As an interrupt input its active transition sets flag bit 6 (R350); as an
output it sets nothing. -/
def PiaSide.setC2 (level : Bool) (p : PiaSide) : PiaSide :=
  if level = p.c2 then p
  else
    let q := { p with c2 := level, cond2 := false }
    if !p.c2IsOutput && level = p.bit4 && p.en2 && p.cond2 then { q with ctl := q.ctl ||| 0x40 } else q

/-- The environment's levels on PA or PB. -/
def PiaSide.setPins (pins loaded : Byte) (p : PiaSide) : PiaSide := { p with pins := pins, loaded := loaded }

/-- Applies a change to one side. -/
def Pia.onSide (port : PiaPort) (f : PiaSide → PiaSide) (p : Pia) : Pia :=
  match port with
  | .a => { p with sideA := f p.sideA }
  | .b => { p with sideB := f p.sideB }

/-- The MPU reads the register at offset 0 to 3 (R341, R344 to R346, R348). A read of Peripheral Register A clears its
flags and handshakes on CA2 (R354); a read of B clears its flags (R351). -/
def Pia.read (off : Nat) (p : Pia) : Byte × Pia :=
  match off with
  | 0 =>
    if p.sideA.dataSelected then (p.sideA.levelsA, { p with sideA := p.sideA.clearFlags.c2Fall })
    else (p.sideA.ddr, p)
  | 1 => (p.sideA.ctl, p)
  | 2 =>
    if p.sideB.dataSelected then (p.sideB.levelsB, { p with sideB := p.sideB.clearFlags })
    else (p.sideB.ddr, p)
  | _ => (p.sideB.ctl, p)

/-- The MPU writes the register at offset 0 to 3 (R341, R344, R347, R348). A write of Peripheral Register B handshakes
on CB2 (R353). -/
def Pia.write (free : Byte) (off : Nat) (v : Byte) (p : Pia) : Pia :=
  match off with
  | 0 =>
    if p.sideA.dataSelected then { p with sideA := { p.sideA with out := v } }
    else { p with sideA := { p.sideA with ddr := v } }
  | 1 => { p with sideA := p.sideA.writeCtl free v }
  | 2 =>
    if p.sideB.dataSelected then { p with sideB := PiaSide.c2Fall { p.sideB with out := v } }
    else { p with sideB := { p.sideB with ddr := v } }
  | _ => { p with sideB := p.sideB.writeCtl free v }

/-- What a low Reset pin makes of the PIA (R343). -/
def Pia.reset (p : Pia) : Pia := { p with sideA := p.sideA.reset, sideB := p.sideB.reset }

/-- The Reset pin of the PIA is low: it is the system's reset line, of the given level, or one that the environment
drives; the platform's wiring decides (R343; log 48). -/
def Pia.held (systemLow : Bool) (p : Pia) : Bool := if p.resetWired then systemLow else p.resetLow

/-- A low Reset pin holds all registers of the PIA zero, whatever an access, a pulse or a line has just done (R343). -/
def Pia.settle (systemLow : Bool) (p : Pia) : Pia := if p.held systemLow then p.reset else p

/-- The environment drives the PIA's own Reset pin (R343; log 48). -/
def Pia.setReset (low : Bool) (p : Pia) : Pia := { p with resetLow := low }

/-- One E pulse of the whole PIA (R340: one per machine cycle). -/
def Pia.ePulse (selected : Bool) (p : Pia) : Pia :=
  { p with sideA := p.sideA.ePulse selected, sideB := p.sideB.ePulse selected }

/-- The PIA holds the given line low (R352). -/
def Pia.holds (w : Wire) (p : Pia) : Bool :=
  (decide (p.wireA = w) && p.sideA.irqLow) || (decide (p.wireB = w) && p.sideB.irqLow)

end Sys2Proof.Machine
end

