-- ==== Sys2Proof/Machine/Platform.lean ====
section
/-! DEFINITION. The board: the interrupt lines, what an access to an address does (20_memory.md R66 to R68), the events
of the environment, and one machine cycle (R52, R65). -/

namespace Sys2Proof.Machine

/-- The wire-OR of a line is pulled low by a device of the platform (R311, R352, R375). -/
def Board.deviceLow (w : Wire) (b : Board) : Bool := b.pias.any (·.holds w) || b.acias.any (·.holds w)

/-- The level of the IRQ input is low (R37, R311). -/
def Board.irqLow (b : Board) : Bool := b.lines.irqLow || b.deviceLow .irq

/-- The level of the NMI input is low (R36, R352, R375). -/
def Board.nmiLow (b : Board) : Bool := b.lines.nmiLow || b.deviceLow .nmi

/-- Samples the interrupt lines: a fall of NMI sets `nmi_pending` (R36), a low IRQ is noted for the halt of R325. -/
def Board.sample (b : Board) : Board :=
  { b with
      nmiPending := b.nmiPending || (b.nmiLow && !b.nmiSeen)
      nmiSeen := b.nmiLow
      irqSeen := b.irqSeen || b.irqLow }

/-- Uses up one free value. -/
def Board.bump (b : Board) : Board := { b with free := b.free + 1 }

/-- The byte that RAM or ROM holds at address `a`, under its home (R68, R383). -/
def Board.byteAt (a : Nat) (b : Board) : Byte := b.mem.read (b.map.home a)

/-- Stores a byte under the home of address `a`. -/
def Board.setByte (a : Nat) (v : Byte) (b : Board) : Board := { b with mem := b.mem.write (b.map.home a) v }

/-- Stores bytes at consecutive addresses modulo 65536, past the bus (an image placed from outside; log 5). -/
def Board.place : Board → Addr → List Byte → Board
  | b, _, [] => b
  | b, a, v :: rest => Board.place (b.setByte a.toNat v) (a + 1) rest

/-- Replaces the n-th PIA by what an access has made of it, as far as its Reset pin lets it (R343). -/
def Board.setPia (n : Nat) (p : Pia) (b : Board) : Board :=
  { b with pias := b.pias.set n (p.settle b.lines.resetLow) }

/-- What a read of address `a` returns and does to the platform (R68): memory answers its byte; a device register by
its own rules; where nothing is selected a fresh arbitrary byte (decision D5). `regionAt` follows a mirror to what it
repeats, so only a mirror of a mirror, which no well-formed map has, is left as one: it selects nothing. -/
def Board.accessRead (a : Addr) (b : Board) : Byte × Board :=
  match b.map.regionAt a.toNat with
  | some (.ram, _) => (b.byteAt a.toNat, b)
  | some (.rom, _) => (b.byteAt a.toNat, b)
  | some (.pia n first, off) =>
    match b.pias[n]? with
    | some p => ((p.read (first + off)).1, Board.sample (b.setPia n (p.read (first + off)).2))
    | none => (Config.freeByte b.free, b.bump)
  | some (.acia n first, off) =>
    match b.acias[n]? with
    | some p =>
      ((p.read (Config.freeByte b.free) (first + off)).1,
        Board.sample { b.bump with acias := b.acias.set n (p.read (Config.freeByte b.free) (first + off)).2 })
    | none => (Config.freeByte b.free, b.bump)
  | some (.mirror _, _) => (Config.freeByte b.free, b.bump)
  | none => (Config.freeByte b.free, b.bump)

/-- What a write to address `a` does (R68): RAM stores the byte, a device register acts by its own rules, ROM and
unpopulated addresses are not changed (decision D5). -/
def Board.accessWrite (a : Addr) (v : Byte) (b : Board) : Board :=
  match b.map.regionAt a.toNat with
  | some (.ram, _) => b.setByte a.toNat v
  | some (.rom, _) => b
  | some (.pia n first, off) =>
    match b.pias[n]? with
    | some p => Board.sample (b.bump.setPia n (p.write (Config.freeByte b.free) (first + off) v))
    | none => b
  | some (.acia n first, off) =>
    match b.acias[n]? with
    | some p => Board.sample { b with acias := b.acias.set n (p.write (first + off) v) }
    | none => b
  | some (.mirror _, _) => b
  | none => b

/-- Changes the n-th PIA, if there is one. -/
def Board.onPia (n : Nat) (f : Pia → Pia) (b : Board) : Board := { b with pias := b.pias.modify n f }

/-- Changes the n-th ACIA, if there is one. -/
def Board.onAcia (n : Nat) (f : Acia → Acia) (b : Board) : Board := { b with acias := b.acias.modify n f }

/-- Every PIA whose Reset pin is low is reset: those on the system's reset while Reset is low, the others by their own
pin (R343, R403; log 48). -/
def Board.resetPias (b : Board) : Board := { b with pias := b.pias.map (Pia.settle b.lines.resetLow) }

/-- The effect of one event before the lines are sampled. A fall of Reset opens a pulse of length 0 (R400, R402). Clocks
out of their limits start the count of a Reset pulse again, since its eight periods are periods of a clock within its
limits (R402; log 12). An access of another master is no machine cycle of its own: no E pulse goes with it (log 43). -/
def Board.apply (e : EnvEvent) (b : Board) : Board :=
  match e with
  | .irq low => { b with lines := { b.lines with irqLow := low } }
  | .nmi low => { b with lines := { b.lines with nmiLow := low } }
  | .halt low => { b with lines := { b.lines with haltLow := low } }
  | .reset low =>
    { b with
        lines := { b.lines with resetLow := low }
        resetFor := if low && !b.lines.resetLow then some 0 else b.resetFor }
  | .masterRead a => (b.accessRead a).2
  | .masterWrite a v => b.accessWrite a v
  | .clockLost => { b with destroyed := true, resetFor := b.resetFor.map (fun _ => 0) }
  | .piaPins n port pins loaded => b.onPia n (Pia.onSide port (PiaSide.setPins pins loaded))
  | .piaC1 n port level => b.onPia n (Pia.onSide port (PiaSide.setC1 level))
  | .piaC2 n port level => b.onPia n (Pia.onSide port (PiaSide.setC2 level))
  | .piaReset n low => b.onPia n (Pia.setReset low)
  | .aciaReceive n v fe pe => b.onAcia n (Acia.receive v fe pe)
  | .aciaTake n => b.onAcia n Acia.take
  | .aciaSent n => b.onAcia n Acia.sent
  | .aciaCts n level => b.onAcia n (Acia.setCts level)
  | .aciaDcd n level => Board.onAcia n (Acia.setDcd (Config.freeBit b.free) level) b.bump

/-- One event of the environment: its effect, the PIAs whose Reset pin is low held in reset (R343), and the lines
sampled (R36, R325). -/
def Board.event (b : Board) (e : EnvEvent) : Board := (b.apply e).resetPias.sample

/-- The environment acts: the next batch of the script, if any. -/
def Board.batch (b : Board) : Board :=
  match b.env with
  | [] => b
  | events :: rest => events.foldl Board.event { b with env := rest }

/-- A low Reset line is held for one more machine cycle (R400), and may cut the instruction in progress short: once one
access is dropped, all later ones are (R327, U7; log 11). -/
def Board.resetTick (b : Board) : Board :=
  if b.lines.resetLow then
    { b.bump with resetFor := some (b.resetFor.getD 0 + 1), cut := b.cut || Config.freeBit b.free }
  else b

/-- One E pulse for every PIA; `sel` is the PIA that the cycle addresses (R340, R351). A PIA whose Reset pin is low
stays reset (R343). -/
def Board.ePulse (sel : Option Nat) (b : Board) : Board :=
  { b with pias := b.pias.mapIdx (fun n p => (p.ePulse (sel == some n)).settle b.lines.resetLow) }

/-- What every machine cycle begins with, VMA = 1 or not: the environment's events, Reset, and the E pulse. DESIGN CHOICE
(log 43): the pulse is a selected one only for the PIA that the MPU's own access addresses, also when an event of the
cycle is an access of another master to a PIA, of which R351 says nothing. A cycle whose access Reset has cut off is one
with VMA = 0, so its pulse selects no PIA (R65, R340; DESIGN CHOICE, log 51). -/
def Board.cycle (sel : Option Nat) (b : Board) : Board :=
  let b1 := b.batch.resetTick
  b1.ePulse (if b1.cut then none else sel)

/-- Records a machine cycle in the trace (log 21). -/
def Board.record (c : BusCycle) (b : Board) : Board := { b with trace := b.trace ++ [c] }

/-- `MemRead(a, 1)`: one machine cycle with VMA = 1 and R/W = 1 (R52). In an instruction that Reset has cut short the
access is not made and the byte is arbitrary (R327). -/
def Board.busRead (a : Addr) (b : Board) : Byte × Board :=
  let b1 := b.cycle (b.map.piaAt a.toNat)
  if b1.cut then (Config.freeByte b1.free, b1.bump.record (.internal none))
  else ((b1.accessRead a).1, (b1.accessRead a).2.record (.read a (b1.accessRead a).1))

/-- `MemWrite(a, 1, v)`: one machine cycle with VMA = 1 and R/W = 0 (R52); not made in an instruction cut short. -/
def Board.busWrite (a : Addr) (v : Byte) (b : Board) : Board :=
  let b1 := b.cycle (b.map.piaAt a.toNat)
  if b1.cut then b1.record (.internal none) else (b1.accessWrite a v).record (.write a v)

/-- A machine cycle with VMA = 0, seen on the bus as `c`: no access (R65). -/
def Board.idle (c : BusCycle) (b : Board) : Board := (b.cycle none).record c

end Sys2Proof.Machine
end

