-- ==== Sys2Proof/Machine/Ops.lean ====
section
/-! DEFINITION. The named operations over registers and memory (the primitives of 00_scope.md R6), interrupt entry and
the return from one (60_exceptions.md R316, R321), restart (70_reset_and_hazards.md R400). -/

namespace Sys2Proof.Machine

/-- The accumulator an operation code names (the source's ACCX, R93). -/
inductive Acc where
  | a
  | b
  deriving DecidableEq, Repr

/-- The accumulator `x[r]` (R6). -/
def State.acc (r : Acc) (s : State) : Byte :=
  match r with
  | .a => s.a
  | .b => s.b

/-- Writes `x[r]` (R6). -/
def State.setAcc (r : Acc) (v : Byte) (s : State) : State :=
  match r with
  | .a => { s with a := v }
  | .b => { s with b := v }

/-- Writes the six flags. -/
def State.setFlags (f : Flags) (s : State) : State := { s with cc := f }

/-- `CCbyte()` (R6, R27): bits 7 and 6 are ones, then H I N Z V C. -/
def Flags.toByte (f : Flags) : Byte :=
  0b11#2 ++ BitVec.ofBool f.h ++ BitVec.ofBool f.i ++ BitVec.ofBool f.n ++ BitVec.ofBool f.z ++ BitVec.ofBool f.v ++
    BitVec.ofBool f.c

/-- `SetCC(b)` (R6, R27): bits 7 and 6 are ignored. -/
def Flags.ofByte (b : Byte) : Flags :=
  { h := b.getLsbD 5, i := b.getLsbD 4, n := b.getLsbD 3, z := b.getLsbD 2, v := b.getLsbD 1, c := b.getLsbD 0 }

/-- BA: the MPU has stopped and the bus is free (R38, R323, R324). DESIGN CHOICE (log 45): BA = 0 in RESET, whose outputs
R38 does not state. -/
def State.busAvailable (s : State) : Bool := decide (s.run = .waiting) || decide (s.run = .halted)

/-- `MemRead(a, 1)` (R52). -/
def State.read8 (a : Addr) (s : State) : Byte × State :=
  ((s.board.busRead a).1, { s with board := (s.board.busRead a).2 })

/-- `MemWrite(a, 1, v)` (R52). -/
def State.write8 (a : Addr) (v : Byte) (s : State) : State := { s with board := s.board.busWrite a v }

/-- A machine cycle with VMA = 0, seen on the bus as `c` (R40, R65). -/
def State.idle (c : BusCycle) (s : State) : State := { s with board := s.board.idle c }

/-- Machine cycles with VMA = 0, seen on the bus in this order. -/
def State.idles : List BusCycle → State → State
  | [], s => s
  | c :: rest, s => State.idles rest (s.idle c)

/-- A cycle with VMA = 0 and `a` on the address bus (R65). -/
def vmaLow (a : Addr) : BusCycle := .internal (some a)

/-- A cycle with VMA = 0 for which the spec gives no value of the address bus (log 20). -/
def vmaLowUnstated : BusCycle := .internal none

/-- "Index Register Plus Offset (w/o Carry)" (R65, R98): the low-order byte of X plus the offset, with the high-order
byte of X as it is. -/
def offsetWithoutCarry (x : Word) (o : Byte) : Addr := join (hi x) (lo x + o)

/-- The two VMA = 0 cycles in which an indexed address is formed: "Index Register" and "Index Register Plus Offset
(w/o Carry)" (R65; log 20). -/
def indexCycles (x : Word) (o : Byte) : List BusCycle := [vmaLow x, vmaLow (offsetWithoutCarry x o)]

/-- A VMA = 1 read whose data the MPU discards (20_memory.md R64). -/
def State.dummyRead (a : Addr) (s : State) : State := (s.read8 a).2

/-- `MemRead(a, 2)`: the high-order byte at `a`, then the low-order byte at `a + 1` (R53, R54). -/
def State.read16 (a : Addr) (s : State) : Word × State :=
  (join (s.read8 a).1 ((s.read8 a).2.read8 (a + 1)).1, ((s.read8 a).2.read8 (a + 1)).2)

/-- `MemWrite(a, 2, v)`: the high-order byte to `a`, then the low-order byte to `a + 1` (R53, R55). -/
def State.write16 (a : Addr) (v : Word) (s : State) : State := (s.write8 a (hi v)).write8 (a + 1) (lo v)

/-- `Fetch8()` (R6, R92). -/
def State.fetch8 (s : State) : Byte × State :=
  ((s.read8 s.pc).1, { (s.read8 s.pc).2 with pc := s.pc + 1 })

/-- `Fetch16()` (R6, R58, R92): the high-order byte first. -/
def State.fetch16 (s : State) : Word × State :=
  (join s.fetch8.1 s.fetch8.2.fetch8.1, s.fetch8.2.fetch8.2)

/-- `Push8(v)` (R6, R56): writes at SP, then decrements SP. -/
def State.push8 (v : Byte) (s : State) : State := { s.write8 s.sp v with sp := s.sp - 1 }

/-- `Pull8()` (R6, R56): increments SP, then reads at SP. -/
def State.pull8 (s : State) : Byte × State :=
  ((s.read8 (s.sp + 1)).1, { (s.read8 (s.sp + 1)).2 with sp := s.sp + 1 })

/-- `Push16(v)` (R6, R57): the low-order byte first. -/
def State.push16 (v : Word) (s : State) : State := (s.push8 (lo v)).push8 (hi v)

/-- `Pull16()` (R6, R57): the high-order byte first. -/
def State.pull16 (s : State) : Word × State :=
  (join s.pull8.1 s.pull8.2.pull8.1, s.pull8.2.pull8.2)

/-- A free bit for a flag the spec leaves unspecified (log 6). -/
def State.drawBit (s : State) : Bool × State := (Config.freeBit s.board.free, { s with board := s.board.bump })

/-- The vectors of Table 1 (R67, R311). -/
def vectorIrq : Addr := 0xFFF8
/-- The SWI vector (R311). -/
def vectorSwi : Addr := 0xFFFA
/-- The NMI vector (R311). -/
def vectorNmi : Addr := 0xFFFC
/-- The restart vector (R311). -/
def vectorRestart : Addr := 0xFFFE

/-- Stacks the seven bytes of the frame of R317: pc, X (low-order byte first), A, B, CC. -/
def State.pushFrame (s : State) : State :=
  ((((s.push16 s.pc).push16 s.x).push8 s.a).push8 s.b).push8 s.cc.toByte

/-- Sets I and leaves the other flags (R318). -/
def State.mask (s : State) : State := { s with cc := { s.cc with i := true } }

/-- Loads pc from a vector, high-order byte first (R319), as it stands. -/
def State.vector (vec : Addr) (s : State) : State := { (s.read16 vec).2 with pc := (s.read16 vec).1 }

/-- Taking the NMI clears `nmi_pending`; the other entries leave it (R316, R318). -/
def State.acknowledge (vec : Addr) (s : State) : State :=
  if vec = vectorNmi then { s with board := { s.board with nmiPending := false } } else s

/-- The end of every entry: I set, an NMI acknowledged, pc loaded from the vector (R316, R263). -/
def State.enter (vec : Addr) (s : State) : State := (s.mask.acknowledge vec).vector vec

/-- `TakeInterrupt(vec)` from RUNNING (R316): the frame, then the entry. Twelve machine cycles as SWI's twelve: two
internal, seven writes, one internal, two reads (R412; log 20). -/
def State.takeInterrupt (vec : Addr) (s : State) : State :=
  (((s.idles [vmaLowUnstated, vmaLowUnstated]).pushFrame).idle vmaLowUnstated).enter vec

/-- The entry that ends WAITING: the registers are already stacked (R263, R323); four machine cycles (R412; log 20). -/
def State.wake (vec : Addr) (s : State) : State :=
  { (s.idles [vmaLowUnstated, vmaLowUnstated]).enter vec with run := .running }

/-- The pulls of RTI: CC, B, A, X, pc from SP + 1 to SP + 7 (R260, R321). -/
def State.pullFrame (s : State) : State :=
  let c := s.pull8
  let b := c.2.pull8
  let a := b.2.pull8
  let x := a.2.pull16
  let p := x.2.pull16
  { p.2 with cc := Flags.ofByte c.1, b := b.1, a := a.1, x := x.1, pc := p.1 }

/-- The restart sequence (R400): I set, `nmi_pending` cleared, pc from FFFE and FFFF, RUNNING; A, B, X, SP, H, N, Z, V
and C are free values (R41, U1; log 13). A halt's IRQ is forgotten and the Reset pulse is served. DESIGN CHOICE (log 42):
its machine cycles are the two vector reads alone; how many pass between Reset high and the first fetch is not stated
(91_not_in_source.md N1, N20). -/
def State.restart (s : State) : State :=
  let k := s.board.free
  let s1 : State :=
    { a := Config.freeByte k
      b := Config.freeByte (k + 1)
      x := Config.freeWord k
      sp := Config.freeWord (k + 1)
      pc := s.pc
      cc := { h := Config.freeBit k, i := true, n := Config.freeBit (k + 1), z := Config.freeBit (k + 2),
              v := Config.freeBit (k + 3), c := Config.freeBit (k + 4) }
      run := .running
      haltIrq := false
      board := { s.board with nmiPending := false, resetFor := none, destroyed := false, free := k + 5 } }
  s1.vector vectorRestart

/-- A run state chosen by two free bits. -/
def freeRun (p q : Bool) : RunState :=
  match p, q with
  | false, false => .running
  | false, true => .waiting
  | true, false => .halted
  | true, true => .reset

/-- All MPU state unspecified: after a Reset pulse that was too short (R402, U7) or lost clocks (R326, U8; log 12). -/
def State.scramble (s : State) : State :=
  let k := s.board.free
  { a := Config.freeByte k
    b := Config.freeByte (k + 1)
    x := Config.freeWord k
    sp := Config.freeWord (k + 1)
    pc := Config.freeWord (k + 2)
    cc := { h := Config.freeBit k, i := Config.freeBit (k + 1), n := Config.freeBit (k + 2),
            z := Config.freeBit (k + 3), v := Config.freeBit (k + 4), c := Config.freeBit (k + 5) }
    run := freeRun (Config.freeBit (k + 6)) (Config.freeBit (k + 7))
    haltIrq := Config.freeBit (k + 8)
    board := { s.board with nmiPending := Config.freeBit (k + 9), resetFor := none, destroyed := false, free := k + 10 } }

end Sys2Proof.Machine
end

