-- ==== Sys2Proof/Machine/Flags.lean ====
section
/-! DEFINITION. Results and flags: AddFlags, SubFlags, LogicFlags, ShiftFlags, Flags16 and the flag rules of single
instructions, over exact integers reduced at the end (00_scope.md R5). -/

namespace Sys2Proof.Machine

/-- `(a + m + c) mod 256` (R131). -/
def addResult (a m : Byte) (c : Bool) : Byte := BitVec.ofNat 8 (a.toNat + m.toNat + bitNat c)

/-- `AddFlags(a, m, c)` (R131). -/
def addFlags (a m : Byte) (c : Bool) (f : Flags) : Flags :=
  let res := addResult a m c
  { f with
      h := decide (15 < a.toNat % 16 + m.toNat % 16 + bitNat c)
      n := res.msb
      z := decide (res = 0)
      v := a.msb == m.msb && res.msb != a.msb
      c := decide (255 < a.toNat + m.toNat + bitNat c) }

/-- `(a - m - c) mod 256` (R132). -/
def subResult (a m : Byte) (c : Bool) : Byte := BitVec.ofInt 8 ((a.toNat : Int) - m.toNat - bitNat c)

/-- `SubFlags(a, m, c)` (R132): C is the borrow; H is not affected. -/
def subFlags (a m : Byte) (c : Bool) (f : Flags) : Flags :=
  let res := subResult a m c
  { f with
      n := res.msb
      z := decide (res = 0)
      v := a.msb != m.msb && res.msb != a.msb
      c := decide (a.toNat < m.toNat + bitNat c) }

/-- `LogicFlags(res)` (R170). -/
def logicFlags (res : Byte) (f : Flags) : Flags := { f with n := res.msb, z := decide (res = 0), v := false }

/-- `ShiftFlags(res, cout)` (R171): V is the new N xor the new C. -/
def shiftFlags (res : Byte) (cout : Bool) (f : Flags) : Flags :=
  { f with n := res.msb, z := decide (res = 0), v := res.msb != cout, c := cout }

/-- `Flags16(w)` (R210). -/
def flags16 (w : Word) (f : Flags) : Flags := { f with n := w.msb, z := decide (w = 0), v := false }

/-- NEG (R142): the result and its flags, notes 1 and 2. -/
def negate (v : Byte) (f : Flags) : Byte × Flags :=
  let res := 0 - v
  (res, { f with n := res.msb, z := decide (res = 0), v := decide (res = 0x80), c := decide (res ≠ 0) })

/-- INC (R144): V by note 5; C and H not affected. -/
def increment (v : Byte) (f : Flags) : Byte × Flags :=
  let res := v + 1
  (res, { f with n := res.msb, z := decide (res = 0), v := decide (v = 0x7F) })

/-- DEC (R145): V by note 4; C and H not affected. -/
def decrement (v : Byte) (f : Flags) : Byte × Flags :=
  let res := v - 1
  (res, { f with n := res.msb, z := decide (res = 0), v := decide (v = 0x80) })

/-- CLR (R146). -/
def clear (_ : Byte) (f : Flags) : Byte × Flags := (0, { f with n := false, z := true, v := false, c := false })

/-- TST (R147): the flags; the operand is not changed. -/
def testFlags (v : Byte) (f : Flags) : Flags :=
  { f with n := v.msb, z := decide (v = 0), v := false, c := false }

/-- COM (R176): every bit inverted; C set. -/
def complement (v : Byte) (f : Flags) : Byte × Flags :=
  let res := ~~~v
  (res, { f with n := res.msb, z := decide (res = 0), v := false, c := true })

/-- ROL (R177): the old C becomes bit 0. -/
def rotateLeft (v : Byte) (f : Flags) : Byte × Flags :=
  let res := BitVec.ofNat 8 (v.toNat * 2 + bitNat f.c)
  (res, shiftFlags res (v.getLsbD 7) f)

/-- ROR (R178): the old C becomes bit 7. -/
def rotateRight (v : Byte) (f : Flags) : Byte × Flags :=
  let res := BitVec.ofNat 8 (bitNat f.c * 128 + v.toNat / 2)
  (res, shiftFlags res (v.getLsbD 0) f)

/-- ASL (R179). -/
def shiftLeft (v : Byte) (f : Flags) : Byte × Flags :=
  let res := BitVec.ofNat 8 (v.toNat * 2)
  (res, shiftFlags res (v.getLsbD 7) f)

/-- ASR (R180): bit 7 is kept. -/
def shiftRightArith (v : Byte) (f : Flags) : Byte × Flags :=
  let res := BitVec.ofNat 8 (bitNat (v.getLsbD 7) * 128 + v.toNat / 2)
  (res, shiftFlags res (v.getLsbD 0) f)

/-- LSR (R181): zero enters bit 7. -/
def shiftRight (v : Byte) (f : Flags) : Byte × Flags :=
  let res := BitVec.ofNat 8 (v.toNat / 2)
  (res, shiftFlags res (v.getLsbD 0) f)

/-- The correction of DAA (R143): 06 for the low digit, 60 for the high digit. -/
def daaCorrection (a : Byte) (f : Flags) : Nat :=
  let lsn := a.toNat % 16
  let msn := a.toNat / 16
  (if 9 < lsn ∨ f.h = true then 0x06 else 0) +
    (if 9 < msn ∨ f.c = true ∨ (8 < msn ∧ 9 < lsn) then 0x60 else 0)

/-- DAA (R143): the corrected sum; C is never cleared (note 3); V is the free bit `free` (U4). -/
def decimalAdjust (free : Bool) (a : Byte) (f : Flags) : Byte × Flags :=
  let sum := a.toNat + daaCorrection a f
  let res := BitVec.ofNat 8 sum
  (res, { f with n := res.msb, z := decide (res = 0), v := free, c := f.c || decide (255 < sum) })

/-- CPX (R211): N and V from the subtraction of the high-order bytes without a borrow (decision D16), Z from all 16
bits; H, I and C not affected. -/
def compareIndex (x w : Word) (f : Flags) : Flags :=
  let dh := subResult (hi x) (hi w) false
  { f with
      n := dh.msb
      v := (hi x).msb != (hi w).msb && dh.msb != (hi x).msb
      z := decide (x = w) }

/-- DEX and INX (R212, R214): only Z, of the new X. -/
def zeroFlag16 (w : Word) (f : Flags) : Flags := { f with z := decide (w = 0) }

end Sys2Proof.Machine
end

