-- ==== Sys2Proof/Machine/Operands.lean ====
section
/-! DEFINITION. The operand forms of 30_encoding.md R94 to R98 and R107, with the VMA = 0 cycles that Table 8 puts
before a data access (20_memory.md R65, 95_test_vectors.md section 1.6; log 20). -/

namespace Sys2Proof.Machine

/-- A memory operand: direct, indexed or extended (R95, R96, R98). -/
inductive MemOperand where
  | dir (d : Byte)
  | idx (o : Byte)
  | ext (w : Word)
  deriving DecidableEq, Repr

/-- An 8-bit operand: the immediate byte, or a memory byte (R94, R107). -/
inductive Operand8 where
  | imm (m : Byte)
  | mem (e : MemOperand)
  deriving DecidableEq, Repr

/-- A 16-bit operand: two immediate bytes, or two memory bytes (R94, R107). -/
inductive Operand16 where
  | imm (w : Word)
  | mem (e : MemOperand)
  deriving DecidableEq, Repr

/-- `EA(mode)`: `zext_16(b2)`, `X + zext_16(b2)` or `b2 ++ b3` (R95, R96, R98). X is not changed. -/
def MemOperand.ea (e : MemOperand) (s : State) : Addr :=
  match e with
  | .dir d => zext16 d
  | .idx o => s.x + zext16 o
  | .ext w => w

/-- The VMA = 0 cycles before the operand is reached: two in the indexed mode, none in the other modes (R65; log 20). -/
def MemOperand.approach (e : MemOperand) (s : State) : List BusCycle :=
  match e with
  | .dir _ => []
  | .idx o => indexCycles s.x o
  | .ext _ => []

/-- The byte `M` (R107). -/
def Operand8.read (o : Operand8) (s : State) : Byte × State :=
  match o with
  | .imm m => (m, s)
  | .mem e => (s.idles (e.approach s)).read8 (e.ea s)

/-- The two bytes `M`, `M + 1`, high-order byte first (R54, R107). -/
def Operand16.read (o : Operand16) (s : State) : Word × State :=
  match o with
  | .imm w => (w, s)
  | .mem e => (s.idles (e.approach s)).read16 (e.ea s)

/-- Stores a byte: the cycle before the write has VMA = 0 and the destination on the address bus, so the destination is
not read (R65, R183). -/
def MemOperand.store8 (e : MemOperand) (v : Byte) (s : State) : State :=
  (s.idles (e.approach s ++ [vmaLow (e.ea s)])).write8 (e.ea s) v

/-- Stores two bytes, high-order byte first, after a VMA = 0 cycle at the destination (R55, R65, R218). -/
def MemOperand.store16 (e : MemOperand) (v : Word) (s : State) : State :=
  (s.idles (e.approach s ++ [vmaLow (e.ea s)])).write16 (e.ea s) v

/-- The first half of the read-modify-write pattern: one read of the operand (R63, R133). -/
def MemOperand.rmwRead (e : MemOperand) (s : State) : Byte × State := (s.idles (e.approach s)).read8 (e.ea s)

/-- The branch target `pc + sext_16(r)`, with pc after the fetch (R99). -/
def branchTarget (r : Byte) (s : State) : Addr := s.pc + sext16 r

end Sys2Proof.Machine
end

