-- ==== Sys2Proof/Machine/Arithmetic.lean ====
section
/-! DEFINITION. Accumulator and memory instructions, part 1 (40_accumulator_memory_arithmetic.md R130 to R147). -/

namespace Sys2Proof.Machine

open Host

/-- Cycle 2 of every implied or accumulator instruction: a VMA = 1 read of the byte after the operation code (R64). -/
def State.inherent (s : State) : State := s.dummyRead s.pc

/-- ADD (R136). -/
def addOp (r : Acc) (o : Operand8) (s : State) : State :=
  let m := o.read s
  (m.2.setAcc r (addResult (s.acc r) m.1 false)).setFlags (addFlags (s.acc r) m.1 false s.cc)

/-- ADC (R135): the old C is the carry-in. -/
def adcOp (r : Acc) (o : Operand8) (s : State) : State :=
  let m := o.read s
  (m.2.setAcc r (addResult (s.acc r) m.1 s.cc.c)).setFlags (addFlags (s.acc r) m.1 s.cc.c s.cc)

/-- ABA (R134): the sum goes to A. -/
def abaOp (s : State) : State :=
  (s.inherent.setAcc .a (addResult s.a s.b false)).setFlags (addFlags s.a s.b false s.cc)

/-- SUB (R137). -/
def subOp (r : Acc) (o : Operand8) (s : State) : State :=
  let m := o.read s
  (m.2.setAcc r (subResult (s.acc r) m.1 false)).setFlags (subFlags (s.acc r) m.1 false s.cc)

/-- SBC (R139): the old C is the borrow-in. -/
def sbcOp (r : Acc) (o : Operand8) (s : State) : State :=
  let m := o.read s
  (m.2.setAcc r (subResult (s.acc r) m.1 s.cc.c)).setFlags (subFlags (s.acc r) m.1 s.cc.c s.cc)

/-- SBA (R138): the difference goes to A. -/
def sbaOp (s : State) : State :=
  (s.inherent.setAcc .a (subResult s.a s.b false)).setFlags (subFlags s.a s.b false s.cc)

/-- CMP (R140): the flags of SUB, no register written. -/
def cmpOp (r : Acc) (o : Operand8) (s : State) : State :=
  let m := o.read s
  m.2.setFlags (subFlags (s.acc r) m.1 false s.cc)

/-- CBA (R141): the flags of SBA, no register written. -/
def cbaOp (s : State) : State := s.inherent.setFlags (subFlags s.a s.b false s.cc)

/-- The one-operand pattern on an accumulator (R133). -/
def unaryAcc (f : Byte → Flags → Byte × Flags) (r : Acc) (s : State) : State :=
  (s.inherent.setAcc r (f (s.acc r) s.cc).1).setFlags (f (s.acc r) s.cc).2

/-- The one-operand pattern on memory (R63, R133): one read, one VMA = 0 cycle, one write to the same address. -/
def unaryMem (f : Byte → Flags → Byte × Flags) (e : MemOperand) (s : State) : State :=
  let v := e.rmwRead s
  ((v.2.idle vmaLowUnstated).write8 (e.ea s) (f v.1 s.cc).1).setFlags (f v.1 s.cc).2

/-- DAA (R143): V is a free bit (U4; log 7). -/
def daaOp (s : State) : State :=
  let d := s.inherent.drawBit
  let r := decimalAdjust d.1 s.a s.cc
  (d.2.setAcc .a r.1).setFlags r.2

/-- TST on an accumulator (R147). -/
def tstAcc (r : Acc) (s : State) : State := s.inherent.setFlags (testFlags (s.acc r) s.cc)

/-- TST on memory (R63, R147): one read, one VMA = 0 cycle, and the cycle of the write, with VMA = 0 at the same address. -/
def tstMem (e : MemOperand) (s : State) : State :=
  let v := e.rmwRead s
  (v.2.idles [vmaLowUnstated, vmaLow (e.ea s)]).setFlags (testFlags v.1 s.cc)

/-- ABA, implied (1B, R134). -/
def execAba (s : State) : Outcome State Fault Refusal := .next (abaOp s)

/-- ADCA, immediate (89, R135). -/
def execAdcaImm (m : Byte) (s : State) : Outcome State Fault Refusal := .next (adcOp .a (.imm m) s)

/-- ADCA, direct (99, R135). -/
def execAdcaDir (d : Byte) (s : State) : Outcome State Fault Refusal := .next (adcOp .a (.mem (.dir d)) s)

/-- ADCA, indexed (A9, R135). -/
def execAdcaIdx (o : Byte) (s : State) : Outcome State Fault Refusal := .next (adcOp .a (.mem (.idx o)) s)

/-- ADCA, extended (B9, R135). -/
def execAdcaExt (w : Word) (s : State) : Outcome State Fault Refusal := .next (adcOp .a (.mem (.ext w)) s)

/-- ADCB, immediate (C9, R135). -/
def execAdcbImm (m : Byte) (s : State) : Outcome State Fault Refusal := .next (adcOp .b (.imm m) s)

/-- ADCB, direct (D9, R135). -/
def execAdcbDir (d : Byte) (s : State) : Outcome State Fault Refusal := .next (adcOp .b (.mem (.dir d)) s)

/-- ADCB, indexed (E9, R135). -/
def execAdcbIdx (o : Byte) (s : State) : Outcome State Fault Refusal := .next (adcOp .b (.mem (.idx o)) s)

/-- ADCB, extended (F9, R135). -/
def execAdcbExt (w : Word) (s : State) : Outcome State Fault Refusal := .next (adcOp .b (.mem (.ext w)) s)

/-- ADDA, immediate (8B, R136). -/
def execAddaImm (m : Byte) (s : State) : Outcome State Fault Refusal := .next (addOp .a (.imm m) s)

/-- ADDA, direct (9B, R136). -/
def execAddaDir (d : Byte) (s : State) : Outcome State Fault Refusal := .next (addOp .a (.mem (.dir d)) s)

/-- ADDA, indexed (AB, R136). -/
def execAddaIdx (o : Byte) (s : State) : Outcome State Fault Refusal := .next (addOp .a (.mem (.idx o)) s)

/-- ADDA, extended (BB, R136). -/
def execAddaExt (w : Word) (s : State) : Outcome State Fault Refusal := .next (addOp .a (.mem (.ext w)) s)

/-- ADDB, immediate (CB, R136). -/
def execAddbImm (m : Byte) (s : State) : Outcome State Fault Refusal := .next (addOp .b (.imm m) s)

/-- ADDB, direct (DB, R136). -/
def execAddbDir (d : Byte) (s : State) : Outcome State Fault Refusal := .next (addOp .b (.mem (.dir d)) s)

/-- ADDB, indexed (EB, R136). -/
def execAddbIdx (o : Byte) (s : State) : Outcome State Fault Refusal := .next (addOp .b (.mem (.idx o)) s)

/-- ADDB, extended (FB, R136). -/
def execAddbExt (w : Word) (s : State) : Outcome State Fault Refusal := .next (addOp .b (.mem (.ext w)) s)

/-- SUBA, immediate (80, R137). -/
def execSubaImm (m : Byte) (s : State) : Outcome State Fault Refusal := .next (subOp .a (.imm m) s)

/-- SUBA, direct (90, R137). -/
def execSubaDir (d : Byte) (s : State) : Outcome State Fault Refusal := .next (subOp .a (.mem (.dir d)) s)

/-- SUBA, indexed (A0, R137). -/
def execSubaIdx (o : Byte) (s : State) : Outcome State Fault Refusal := .next (subOp .a (.mem (.idx o)) s)

/-- SUBA, extended (B0, R137). -/
def execSubaExt (w : Word) (s : State) : Outcome State Fault Refusal := .next (subOp .a (.mem (.ext w)) s)

/-- SUBB, immediate (C0, R137). -/
def execSubbImm (m : Byte) (s : State) : Outcome State Fault Refusal := .next (subOp .b (.imm m) s)

/-- SUBB, direct (D0, R137). -/
def execSubbDir (d : Byte) (s : State) : Outcome State Fault Refusal := .next (subOp .b (.mem (.dir d)) s)

/-- SUBB, indexed (E0, R137). -/
def execSubbIdx (o : Byte) (s : State) : Outcome State Fault Refusal := .next (subOp .b (.mem (.idx o)) s)

/-- SUBB, extended (F0, R137). -/
def execSubbExt (w : Word) (s : State) : Outcome State Fault Refusal := .next (subOp .b (.mem (.ext w)) s)

/-- SBA, implied (10, R138). -/
def execSba (s : State) : Outcome State Fault Refusal := .next (sbaOp s)

/-- SBCA, immediate (82, R139). -/
def execSbcaImm (m : Byte) (s : State) : Outcome State Fault Refusal := .next (sbcOp .a (.imm m) s)

/-- SBCA, direct (92, R139). -/
def execSbcaDir (d : Byte) (s : State) : Outcome State Fault Refusal := .next (sbcOp .a (.mem (.dir d)) s)

/-- SBCA, indexed (A2, R139). -/
def execSbcaIdx (o : Byte) (s : State) : Outcome State Fault Refusal := .next (sbcOp .a (.mem (.idx o)) s)

/-- SBCA, extended (B2, R139). -/
def execSbcaExt (w : Word) (s : State) : Outcome State Fault Refusal := .next (sbcOp .a (.mem (.ext w)) s)

/-- SBCB, immediate (C2, R139). -/
def execSbcbImm (m : Byte) (s : State) : Outcome State Fault Refusal := .next (sbcOp .b (.imm m) s)

/-- SBCB, direct (D2, R139). -/
def execSbcbDir (d : Byte) (s : State) : Outcome State Fault Refusal := .next (sbcOp .b (.mem (.dir d)) s)

/-- SBCB, indexed (E2, R139). -/
def execSbcbIdx (o : Byte) (s : State) : Outcome State Fault Refusal := .next (sbcOp .b (.mem (.idx o)) s)

/-- SBCB, extended (F2, R139). -/
def execSbcbExt (w : Word) (s : State) : Outcome State Fault Refusal := .next (sbcOp .b (.mem (.ext w)) s)

/-- CMPA, immediate (81, R140). -/
def execCmpaImm (m : Byte) (s : State) : Outcome State Fault Refusal := .next (cmpOp .a (.imm m) s)

/-- CMPA, direct (91, R140). -/
def execCmpaDir (d : Byte) (s : State) : Outcome State Fault Refusal := .next (cmpOp .a (.mem (.dir d)) s)

/-- CMPA, indexed (A1, R140). -/
def execCmpaIdx (o : Byte) (s : State) : Outcome State Fault Refusal := .next (cmpOp .a (.mem (.idx o)) s)

/-- CMPA, extended (B1, R140). -/
def execCmpaExt (w : Word) (s : State) : Outcome State Fault Refusal := .next (cmpOp .a (.mem (.ext w)) s)

/-- CMPB, immediate (C1, R140). -/
def execCmpbImm (m : Byte) (s : State) : Outcome State Fault Refusal := .next (cmpOp .b (.imm m) s)

/-- CMPB, direct (D1, R140). -/
def execCmpbDir (d : Byte) (s : State) : Outcome State Fault Refusal := .next (cmpOp .b (.mem (.dir d)) s)

/-- CMPB, indexed (E1, R140). -/
def execCmpbIdx (o : Byte) (s : State) : Outcome State Fault Refusal := .next (cmpOp .b (.mem (.idx o)) s)

/-- CMPB, extended (F1, R140). -/
def execCmpbExt (w : Word) (s : State) : Outcome State Fault Refusal := .next (cmpOp .b (.mem (.ext w)) s)

/-- CBA, implied (11, R141). -/
def execCba (s : State) : Outcome State Fault Refusal := .next (cbaOp s)

/-- NEGA, accumulator (40, R142). -/
def execNega (s : State) : Outcome State Fault Refusal := .next (unaryAcc negate .a s)

/-- NEGB, accumulator (50, R142). -/
def execNegb (s : State) : Outcome State Fault Refusal := .next (unaryAcc negate .b s)

/-- NEG, indexed (60, R142). -/
def execNegIdx (o : Byte) (s : State) : Outcome State Fault Refusal := .next (unaryMem negate (.idx o) s)

/-- NEG, extended (70, R142). -/
def execNegExt (w : Word) (s : State) : Outcome State Fault Refusal := .next (unaryMem negate (.ext w) s)

/-- DAA, implied (19, R143). -/
def execDaa (s : State) : Outcome State Fault Refusal := .next (daaOp s)

/-- INCA, accumulator (4C, R144). -/
def execInca (s : State) : Outcome State Fault Refusal := .next (unaryAcc increment .a s)

/-- INCB, accumulator (5C, R144). -/
def execIncb (s : State) : Outcome State Fault Refusal := .next (unaryAcc increment .b s)

/-- INC, indexed (6C, R144). -/
def execIncIdx (o : Byte) (s : State) : Outcome State Fault Refusal := .next (unaryMem increment (.idx o) s)

/-- INC, extended (7C, R144). -/
def execIncExt (w : Word) (s : State) : Outcome State Fault Refusal := .next (unaryMem increment (.ext w) s)

/-- DECA, accumulator (4A, R145). -/
def execDeca (s : State) : Outcome State Fault Refusal := .next (unaryAcc decrement .a s)

/-- DECB, accumulator (5A, R145). -/
def execDecb (s : State) : Outcome State Fault Refusal := .next (unaryAcc decrement .b s)

/-- DEC, indexed (6A, R145). -/
def execDecIdx (o : Byte) (s : State) : Outcome State Fault Refusal := .next (unaryMem decrement (.idx o) s)

/-- DEC, extended (7A, R145). -/
def execDecExt (w : Word) (s : State) : Outcome State Fault Refusal := .next (unaryMem decrement (.ext w) s)

/-- CLRA, accumulator (4F, R146). -/
def execClra (s : State) : Outcome State Fault Refusal := .next (unaryAcc clear .a s)

/-- CLRB, accumulator (5F, R146). -/
def execClrb (s : State) : Outcome State Fault Refusal := .next (unaryAcc clear .b s)

/-- CLR, indexed (6F, R146). -/
def execClrIdx (o : Byte) (s : State) : Outcome State Fault Refusal := .next (unaryMem clear (.idx o) s)

/-- CLR, extended (7F, R146). -/
def execClrExt (w : Word) (s : State) : Outcome State Fault Refusal := .next (unaryMem clear (.ext w) s)

/-- TSTA, accumulator (4D, R147). -/
def execTsta (s : State) : Outcome State Fault Refusal := .next (tstAcc .a s)

/-- TSTB, accumulator (5D, R147). -/
def execTstb (s : State) : Outcome State Fault Refusal := .next (tstAcc .b s)

/-- TST, indexed (6D, R147). -/
def execTstIdx (o : Byte) (s : State) : Outcome State Fault Refusal := .next (tstMem (.idx o) s)

/-- TST, extended (7D, R147). -/
def execTstExt (w : Word) (s : State) : Outcome State Fault Refusal := .next (tstMem (.ext w) s)

end Sys2Proof.Machine
end

