-- ==== Sys2Proof/Machine/ConditionCode.lean ====
section
/-! DEFINITION. Condition code register instructions (44_condition_code.md R290 to R297). A change of I takes effect
at the end of the instruction (decision D7; log 17). -/

namespace Sys2Proof.Machine

open Host

/-- The condition code instructions that write flags: cycle 2 (R64), then the new flags. -/
def flagOp (f : Flags) (s : State) : State := s.inherent.setFlags f

/-- CLC, implied (0C, R290). -/
def execClc (s : State) : Outcome State Fault Refusal := .next (flagOp { s.cc with c := false } s)

/-- CLI, implied (0E, R291). -/
def execCli (s : State) : Outcome State Fault Refusal := .next (flagOp { s.cc with i := false } s)

/-- CLV, implied (0A, R292). -/
def execClv (s : State) : Outcome State Fault Refusal := .next (flagOp { s.cc with v := false } s)

/-- SEC, implied (0D, R293). -/
def execSec (s : State) : Outcome State Fault Refusal := .next (flagOp { s.cc with c := true } s)

/-- SEI, implied (0F, R294). -/
def execSei (s : State) : Outcome State Fault Refusal := .next (flagOp { s.cc with i := true } s)

/-- SEV, implied (0B, R295). -/
def execSev (s : State) : Outcome State Fault Refusal := .next (flagOp { s.cc with v := true } s)

/-- TAP, implied (06, R296). -/
def execTap (s : State) : Outcome State Fault Refusal := .next (flagOp (Flags.ofByte s.a) s)

/-- TPA, implied (07, R297). -/
def execTpa (s : State) : Outcome State Fault Refusal := .next ({ s.inherent with a := s.cc.toByte })

end Sys2Proof.Machine
end

