-- ==== Sys2Proof/Machine/IndexStack.lean ====
section
/-! DEFINITION. Index register and stack pointer instructions (42_index_stack.md R210 to R221). -/

namespace Sys2Proof.Machine

open Host

/-- The cycles of DEX, DES, INX, INS, TXS and TSX after the fetch: the read of the next byte (R64) and two VMA = 0 cycles
(R106), of which the first shows `bus` (R65; log 20). -/
def State.inherent4 (bus : BusCycle) (s : State) : State := s.inherent.idles [bus, vmaLowUnstated]

/-- CPX (R211): flags only. -/
def cpxOp (o : Operand16) (s : State) : State :=
  let w := o.read s
  w.2.setFlags (compareIndex s.x w.1 s.cc)

/-- LDX (R216): the address is computed from the old X. -/
def ldxOp (o : Operand16) (s : State) : State :=
  let w := o.read s
  State.setFlags (flags16 w.1 s.cc) { w.2 with x := w.1 }

/-- LDS (R217). -/
def ldsOp (o : Operand16) (s : State) : State :=
  let w := o.read s
  State.setFlags (flags16 w.1 s.cc) { w.2 with sp := w.1 }

/-- STX (R218). -/
def stxOp (e : MemOperand) (s : State) : State := (e.store16 s.x s).setFlags (flags16 s.x s.cc)

/-- STS (R219). -/
def stsOp (e : MemOperand) (s : State) : State := (e.store16 s.sp s).setFlags (flags16 s.sp s.cc)

/-- DEX (R212). Cycle 3 shows "Previous Register Contents" (R65). -/
def dexOp (s : State) : State := State.setFlags (zeroFlag16 (s.x - 1) s.cc) { s.inherent4 (vmaLow s.x) with x := s.x - 1 }

/-- INX (R214). Cycle 3 as for DEX. -/
def inxOp (s : State) : State := State.setFlags (zeroFlag16 (s.x + 1) s.cc) { s.inherent4 (vmaLow s.x) with x := s.x + 1 }

/-- DES (R213). Cycle 3 as for DEX, with SP. -/
def desOp (s : State) : State := { s.inherent4 (vmaLow s.sp) with sp := s.sp - 1 }

/-- INS (R215). Cycle 3 as for DES. -/
def insOp (s : State) : State := { s.inherent4 (vmaLow s.sp) with sp := s.sp + 1 }

/-- TXS (R220): SP receives X - 1. -/
def txsOp (s : State) : State := { s.inherent4 vmaLowUnstated with sp := s.x - 1 }

/-- TSX (R221): X receives SP + 1. -/
def tsxOp (s : State) : State := { s.inherent4 vmaLowUnstated with x := s.sp + 1 }

/-- CPX, immediate (8C, R211). -/
def execCpxImm (w : Word) (s : State) : Outcome State Fault Refusal := .next (cpxOp (.imm w) s)

/-- CPX, direct (9C, R211). -/
def execCpxDir (d : Byte) (s : State) : Outcome State Fault Refusal := .next (cpxOp (.mem (.dir d)) s)

/-- CPX, indexed (AC, R211). -/
def execCpxIdx (o : Byte) (s : State) : Outcome State Fault Refusal := .next (cpxOp (.mem (.idx o)) s)

/-- CPX, extended (BC, R211). -/
def execCpxExt (w : Word) (s : State) : Outcome State Fault Refusal := .next (cpxOp (.mem (.ext w)) s)

/-- DEX, implied (09, R212). -/
def execDex (s : State) : Outcome State Fault Refusal := .next (dexOp s)

/-- DES, implied (34, R213). -/
def execDes (s : State) : Outcome State Fault Refusal := .next (desOp s)

/-- INX, implied (08, R214). -/
def execInx (s : State) : Outcome State Fault Refusal := .next (inxOp s)

/-- INS, implied (31, R215). -/
def execIns (s : State) : Outcome State Fault Refusal := .next (insOp s)

/-- LDX, immediate (CE, R216). -/
def execLdxImm (w : Word) (s : State) : Outcome State Fault Refusal := .next (ldxOp (.imm w) s)

/-- LDX, direct (DE, R216). -/
def execLdxDir (d : Byte) (s : State) : Outcome State Fault Refusal := .next (ldxOp (.mem (.dir d)) s)

/-- LDX, indexed (EE, R216). -/
def execLdxIdx (o : Byte) (s : State) : Outcome State Fault Refusal := .next (ldxOp (.mem (.idx o)) s)

/-- LDX, extended (FE, R216). -/
def execLdxExt (w : Word) (s : State) : Outcome State Fault Refusal := .next (ldxOp (.mem (.ext w)) s)

/-- LDS, immediate (8E, R217). -/
def execLdsImm (w : Word) (s : State) : Outcome State Fault Refusal := .next (ldsOp (.imm w) s)

/-- LDS, direct (9E, R217). -/
def execLdsDir (d : Byte) (s : State) : Outcome State Fault Refusal := .next (ldsOp (.mem (.dir d)) s)

/-- LDS, indexed (AE, R217). -/
def execLdsIdx (o : Byte) (s : State) : Outcome State Fault Refusal := .next (ldsOp (.mem (.idx o)) s)

/-- LDS, extended (BE, R217). -/
def execLdsExt (w : Word) (s : State) : Outcome State Fault Refusal := .next (ldsOp (.mem (.ext w)) s)

/-- STX, direct (DF, R218). -/
def execStxDir (d : Byte) (s : State) : Outcome State Fault Refusal := .next (stxOp (.dir d) s)

/-- STX, indexed (EF, R218). -/
def execStxIdx (o : Byte) (s : State) : Outcome State Fault Refusal := .next (stxOp (.idx o) s)

/-- STX, extended (FF, R218). -/
def execStxExt (w : Word) (s : State) : Outcome State Fault Refusal := .next (stxOp (.ext w) s)

/-- STS, direct (9F, R219). -/
def execStsDir (d : Byte) (s : State) : Outcome State Fault Refusal := .next (stsOp (.dir d) s)

/-- STS, indexed (AF, R219). -/
def execStsIdx (o : Byte) (s : State) : Outcome State Fault Refusal := .next (stsOp (.idx o) s)

/-- STS, extended (BF, R219). -/
def execStsExt (w : Word) (s : State) : Outcome State Fault Refusal := .next (stsOp (.ext w) s)

/-- TXS, implied (35, R220). -/
def execTxs (s : State) : Outcome State Fault Refusal := .next (txsOp s)

/-- TSX, implied (30, R221). -/
def execTsx (s : State) : Outcome State Fault Refusal := .next (tsxOp s)

end Sys2Proof.Machine
end

