-- ==== Sys2Proof/Machine/JumpBranch.lean ====
section
/-! DEFINITION. Branches, jumps, subroutines, returns, SWI and WAI (43_jump_branch.md R240 to R263). -/

namespace Sys2Proof.Machine

open Host

/-- The branch instructions (R240): two VMA = 0 cycles, then pc moves if the test holds. -/
def branchOp (taken : Bool) (r : Byte) (s : State) : State :=
  { s.idles [vmaLowUnstated, vmaLowUnstated] with pc := if taken then branchTarget r s else s.pc }

/-- BSR (R256): one VMA = 0 cycle at the return address, the return address pushed, three VMA = 0 cycles: "Stack Pointer
- 2", and two that show the subroutine address (log 20). -/
def bsrOp (r : Byte) (s : State) : State :=
  { ((s.idle (vmaLow s.pc)).push16 s.pc).idles
      [vmaLow (s.sp - 2), vmaLow (branchTarget r s), vmaLow (branchTarget r s)] with pc := branchTarget r s }

/-- JMP indexed (R257): two VMA = 0 cycles; memory at the address is not read. -/
def jmpIndexedOp (o : Byte) (s : State) : State := { s.idles (indexCycles s.x o) with pc := s.x + zext16 o }

/-- JSR indexed (R258): the target from the old X, the return address pushed; its VMA = 0 cycles as Table 8 gives them
(95_test_vectors.md section 1.6). -/
def jsrIndexedOp (o : Byte) (s : State) : State :=
  { ((s.idle (vmaLow s.x)).push16 s.pc).idles (vmaLow (s.sp - 2) :: indexCycles s.x o) with pc := s.x + zext16 o }

/-- JSR extended (R258), with its two VMA = 1 reads that have no effect of their own: the target's first byte and the
low-order address byte again (R64), and its VMA = 0 cycles at "Stack Pointer - 2" and "Op Code Address + 2". -/
def jsrExtendedOp (w : Word) (s : State) : State :=
  { (((s.dummyRead w).push16 s.pc).idles [vmaLow (s.sp - 2), vmaLow (s.pc - 1)]).dummyRead (s.pc - 1) with pc := w }

/-- RTS (R261). -/
def rtsOp (s : State) : State :=
  let p := (s.inherent.idle (vmaLow s.sp)).pull16
  { p.2 with pc := p.1 }

/-- RTI (R260): the return from an interrupt, shared with nothing but its own frame (R321). -/
def rtiOp (s : State) : State := (s.inherent.idle (vmaLow s.sp)).pullFrame

/-- SWI (R262): the frame of R317, then the entry through FFFA. -/
def swiOp (s : State) : State := ((s.inherent.pushFrame).idle (vmaLow (s.sp - 7))).enter vectorSwi

/-- WAI (R263): the frame, then WAITING; I is not changed yet. -/
def waiOp (s : State) : State := { s.inherent.pushFrame with run := .waiting }

/-- BRA, relative (20, R241). -/
def execBra (r : Byte) (s : State) : Outcome State Fault Refusal := .next (branchOp (true) r s)

/-- BCC, relative (24, R242). -/
def execBcc (r : Byte) (s : State) : Outcome State Fault Refusal := .next (branchOp (!s.cc.c) r s)

/-- BCS, relative (25, R243). -/
def execBcs (r : Byte) (s : State) : Outcome State Fault Refusal := .next (branchOp (s.cc.c) r s)

/-- BEQ, relative (27, R244). -/
def execBeq (r : Byte) (s : State) : Outcome State Fault Refusal := .next (branchOp (s.cc.z) r s)

/-- BGE, relative (2C, R245). -/
def execBge (r : Byte) (s : State) : Outcome State Fault Refusal := .next (branchOp (s.cc.n == s.cc.v) r s)

/-- BGT, relative (2E, R246). -/
def execBgt (r : Byte) (s : State) : Outcome State Fault Refusal := .next (branchOp (!s.cc.z && s.cc.n == s.cc.v) r s)

/-- BHI, relative (22, R247). -/
def execBhi (r : Byte) (s : State) : Outcome State Fault Refusal := .next (branchOp (!s.cc.c && !s.cc.z) r s)

/-- BLE, relative (2F, R248). -/
def execBle (r : Byte) (s : State) : Outcome State Fault Refusal := .next (branchOp (s.cc.z || s.cc.n != s.cc.v) r s)

/-- BLS, relative (23, R249). -/
def execBls (r : Byte) (s : State) : Outcome State Fault Refusal := .next (branchOp (s.cc.c || s.cc.z) r s)

/-- BLT, relative (2D, R250). -/
def execBlt (r : Byte) (s : State) : Outcome State Fault Refusal := .next (branchOp (s.cc.n != s.cc.v) r s)

/-- BMI, relative (2B, R251). -/
def execBmi (r : Byte) (s : State) : Outcome State Fault Refusal := .next (branchOp (s.cc.n) r s)

/-- BNE, relative (26, R252). -/
def execBne (r : Byte) (s : State) : Outcome State Fault Refusal := .next (branchOp (!s.cc.z) r s)

/-- BVC, relative (28, R253). -/
def execBvc (r : Byte) (s : State) : Outcome State Fault Refusal := .next (branchOp (!s.cc.v) r s)

/-- BVS, relative (29, R254). -/
def execBvs (r : Byte) (s : State) : Outcome State Fault Refusal := .next (branchOp (s.cc.v) r s)

/-- BPL, relative (2A, R255). -/
def execBpl (r : Byte) (s : State) : Outcome State Fault Refusal := .next (branchOp (!s.cc.n) r s)

/-- BSR, relative (8D, R256). -/
def execBsr (r : Byte) (s : State) : Outcome State Fault Refusal := .next (bsrOp r s)

/-- JMP, indexed (6E, R257). -/
def execJmpIdx (o : Byte) (s : State) : Outcome State Fault Refusal := .next (jmpIndexedOp o s)

/-- JMP, extended (7E, R257). -/
def execJmpExt (w : Word) (s : State) : Outcome State Fault Refusal := .next ({ s with pc := w })

/-- JSR, indexed (AD, R258). -/
def execJsrIdx (o : Byte) (s : State) : Outcome State Fault Refusal := .next (jsrIndexedOp o s)

/-- JSR, extended (BD, R258). -/
def execJsrExt (w : Word) (s : State) : Outcome State Fault Refusal := .next (jsrExtendedOp w s)

/-- NOP, implied (01, R259). -/
def execNop (s : State) : Outcome State Fault Refusal := .next (s.inherent)

/-- RTI, implied (3B, R260). -/
def execRti (s : State) : Outcome State Fault Refusal := .next (rtiOp s)

/-- RTS, implied (39, R261). -/
def execRts (s : State) : Outcome State Fault Refusal := .next (rtsOp s)

/-- SWI, implied (3F, R262). -/
def execSwi (s : State) : Outcome State Fault Refusal := .next (swiOp s)

/-- WAI, implied (3E, R263). -/
def execWai (s : State) : Outcome State Fault Refusal := .next (waiOp s)

end Sys2Proof.Machine
end

