-- ==== Sys2Proof/Machine/LogicShiftMove.lean ====
section
/-! DEFINITION. Accumulator and memory instructions, part 2 (41_accumulator_memory_logic_shift_move.md R170 to R187). -/

namespace Sys2Proof.Machine

open Host

/-- AND (R172). -/
def andOp (r : Acc) (o : Operand8) (s : State) : State :=
  let m := o.read s
  (m.2.setAcc r (s.acc r &&& m.1)).setFlags (logicFlags (s.acc r &&& m.1) s.cc)

/-- BIT (R173): the flags of AND, no register written. -/
def bitOp (r : Acc) (o : Operand8) (s : State) : State :=
  let m := o.read s
  m.2.setFlags (logicFlags (s.acc r &&& m.1) s.cc)

/-- ORA (R174). -/
def oraOp (r : Acc) (o : Operand8) (s : State) : State :=
  let m := o.read s
  (m.2.setAcc r (s.acc r ||| m.1)).setFlags (logicFlags (s.acc r ||| m.1) s.cc)

/-- EOR (R175). -/
def eorOp (r : Acc) (o : Operand8) (s : State) : State :=
  let m := o.read s
  (m.2.setAcc r (s.acc r ^^^ m.1)).setFlags (logicFlags (s.acc r ^^^ m.1) s.cc)

/-- LDA (R182). -/
def ldaOp (r : Acc) (o : Operand8) (s : State) : State :=
  let m := o.read s
  (m.2.setAcc r m.1).setFlags (logicFlags m.1 s.cc)

/-- STA (R183): the destination is not read. -/
def staOp (r : Acc) (e : MemOperand) (s : State) : State :=
  (e.store8 (s.acc r) s).setFlags (logicFlags (s.acc r) s.cc)

/-- PSH (R184): cycles 3 and 4 are the write and a VMA = 0 cycle, whose data the model does not
record (DESIGN CHOICE, log 52). -/
def pshOp (r : Acc) (s : State) : State := (s.inherent.push8 (s.acc r)).idle (vmaLow (s.sp - 1))

/-- PUL (R185): cycles 3 and 4 are a VMA = 0 cycle and the read. -/
def pulOp (r : Acc) (s : State) : State :=
  let m := (s.inherent.idle (vmaLow s.sp)).pull8
  m.2.setAcc r m.1

/-- TAB (R186). -/
def tabOp (s : State) : State := (s.inherent.setAcc .b s.a).setFlags (logicFlags s.a s.cc)

/-- TBA (R187). -/
def tbaOp (s : State) : State := (s.inherent.setAcc .a s.b).setFlags (logicFlags s.b s.cc)

/-- ANDA, immediate (84, R172). -/
def execAndaImm (m : Byte) (s : State) : Outcome State Fault Refusal := .next (andOp .a (.imm m) s)

/-- ANDA, direct (94, R172). -/
def execAndaDir (d : Byte) (s : State) : Outcome State Fault Refusal := .next (andOp .a (.mem (.dir d)) s)

/-- ANDA, indexed (A4, R172). -/
def execAndaIdx (o : Byte) (s : State) : Outcome State Fault Refusal := .next (andOp .a (.mem (.idx o)) s)

/-- ANDA, extended (B4, R172). -/
def execAndaExt (w : Word) (s : State) : Outcome State Fault Refusal := .next (andOp .a (.mem (.ext w)) s)

/-- ANDB, immediate (C4, R172). -/
def execAndbImm (m : Byte) (s : State) : Outcome State Fault Refusal := .next (andOp .b (.imm m) s)

/-- ANDB, direct (D4, R172). -/
def execAndbDir (d : Byte) (s : State) : Outcome State Fault Refusal := .next (andOp .b (.mem (.dir d)) s)

/-- ANDB, indexed (E4, R172). -/
def execAndbIdx (o : Byte) (s : State) : Outcome State Fault Refusal := .next (andOp .b (.mem (.idx o)) s)

/-- ANDB, extended (F4, R172). -/
def execAndbExt (w : Word) (s : State) : Outcome State Fault Refusal := .next (andOp .b (.mem (.ext w)) s)

/-- BITA, immediate (85, R173). -/
def execBitaImm (m : Byte) (s : State) : Outcome State Fault Refusal := .next (bitOp .a (.imm m) s)

/-- BITA, direct (95, R173). -/
def execBitaDir (d : Byte) (s : State) : Outcome State Fault Refusal := .next (bitOp .a (.mem (.dir d)) s)

/-- BITA, indexed (A5, R173). -/
def execBitaIdx (o : Byte) (s : State) : Outcome State Fault Refusal := .next (bitOp .a (.mem (.idx o)) s)

/-- BITA, extended (B5, R173). -/
def execBitaExt (w : Word) (s : State) : Outcome State Fault Refusal := .next (bitOp .a (.mem (.ext w)) s)

/-- BITB, immediate (C5, R173). -/
def execBitbImm (m : Byte) (s : State) : Outcome State Fault Refusal := .next (bitOp .b (.imm m) s)

/-- BITB, direct (D5, R173). -/
def execBitbDir (d : Byte) (s : State) : Outcome State Fault Refusal := .next (bitOp .b (.mem (.dir d)) s)

/-- BITB, indexed (E5, R173). -/
def execBitbIdx (o : Byte) (s : State) : Outcome State Fault Refusal := .next (bitOp .b (.mem (.idx o)) s)

/-- BITB, extended (F5, R173). -/
def execBitbExt (w : Word) (s : State) : Outcome State Fault Refusal := .next (bitOp .b (.mem (.ext w)) s)

/-- ORAA, immediate (8A, R174). -/
def execOraaImm (m : Byte) (s : State) : Outcome State Fault Refusal := .next (oraOp .a (.imm m) s)

/-- ORAA, direct (9A, R174). -/
def execOraaDir (d : Byte) (s : State) : Outcome State Fault Refusal := .next (oraOp .a (.mem (.dir d)) s)

/-- ORAA, indexed (AA, R174). -/
def execOraaIdx (o : Byte) (s : State) : Outcome State Fault Refusal := .next (oraOp .a (.mem (.idx o)) s)

/-- ORAA, extended (BA, R174). -/
def execOraaExt (w : Word) (s : State) : Outcome State Fault Refusal := .next (oraOp .a (.mem (.ext w)) s)

/-- ORAB, immediate (CA, R174). -/
def execOrabImm (m : Byte) (s : State) : Outcome State Fault Refusal := .next (oraOp .b (.imm m) s)

/-- ORAB, direct (DA, R174). -/
def execOrabDir (d : Byte) (s : State) : Outcome State Fault Refusal := .next (oraOp .b (.mem (.dir d)) s)

/-- ORAB, indexed (EA, R174). -/
def execOrabIdx (o : Byte) (s : State) : Outcome State Fault Refusal := .next (oraOp .b (.mem (.idx o)) s)

/-- ORAB, extended (FA, R174). -/
def execOrabExt (w : Word) (s : State) : Outcome State Fault Refusal := .next (oraOp .b (.mem (.ext w)) s)

/-- EORA, immediate (88, R175). -/
def execEoraImm (m : Byte) (s : State) : Outcome State Fault Refusal := .next (eorOp .a (.imm m) s)

/-- EORA, direct (98, R175). -/
def execEoraDir (d : Byte) (s : State) : Outcome State Fault Refusal := .next (eorOp .a (.mem (.dir d)) s)

/-- EORA, indexed (A8, R175). -/
def execEoraIdx (o : Byte) (s : State) : Outcome State Fault Refusal := .next (eorOp .a (.mem (.idx o)) s)

/-- EORA, extended (B8, R175). -/
def execEoraExt (w : Word) (s : State) : Outcome State Fault Refusal := .next (eorOp .a (.mem (.ext w)) s)

/-- EORB, immediate (C8, R175). -/
def execEorbImm (m : Byte) (s : State) : Outcome State Fault Refusal := .next (eorOp .b (.imm m) s)

/-- EORB, direct (D8, R175). -/
def execEorbDir (d : Byte) (s : State) : Outcome State Fault Refusal := .next (eorOp .b (.mem (.dir d)) s)

/-- EORB, indexed (E8, R175). -/
def execEorbIdx (o : Byte) (s : State) : Outcome State Fault Refusal := .next (eorOp .b (.mem (.idx o)) s)

/-- EORB, extended (F8, R175). -/
def execEorbExt (w : Word) (s : State) : Outcome State Fault Refusal := .next (eorOp .b (.mem (.ext w)) s)

/-- COMA, accumulator (43, R176). -/
def execComa (s : State) : Outcome State Fault Refusal := .next (unaryAcc complement .a s)

/-- COMB, accumulator (53, R176). -/
def execComb (s : State) : Outcome State Fault Refusal := .next (unaryAcc complement .b s)

/-- COM, indexed (63, R176). -/
def execComIdx (o : Byte) (s : State) : Outcome State Fault Refusal := .next (unaryMem complement (.idx o) s)

/-- COM, extended (73, R176). -/
def execComExt (w : Word) (s : State) : Outcome State Fault Refusal := .next (unaryMem complement (.ext w) s)

/-- ROLA, accumulator (49, R177). -/
def execRola (s : State) : Outcome State Fault Refusal := .next (unaryAcc rotateLeft .a s)

/-- ROLB, accumulator (59, R177). -/
def execRolb (s : State) : Outcome State Fault Refusal := .next (unaryAcc rotateLeft .b s)

/-- ROL, indexed (69, R177). -/
def execRolIdx (o : Byte) (s : State) : Outcome State Fault Refusal := .next (unaryMem rotateLeft (.idx o) s)

/-- ROL, extended (79, R177). -/
def execRolExt (w : Word) (s : State) : Outcome State Fault Refusal := .next (unaryMem rotateLeft (.ext w) s)

/-- RORA, accumulator (46, R178). -/
def execRora (s : State) : Outcome State Fault Refusal := .next (unaryAcc rotateRight .a s)

/-- RORB, accumulator (56, R178). -/
def execRorb (s : State) : Outcome State Fault Refusal := .next (unaryAcc rotateRight .b s)

/-- ROR, indexed (66, R178). -/
def execRorIdx (o : Byte) (s : State) : Outcome State Fault Refusal := .next (unaryMem rotateRight (.idx o) s)

/-- ROR, extended (76, R178). -/
def execRorExt (w : Word) (s : State) : Outcome State Fault Refusal := .next (unaryMem rotateRight (.ext w) s)

/-- ASLA, accumulator (48, R179). -/
def execAsla (s : State) : Outcome State Fault Refusal := .next (unaryAcc shiftLeft .a s)

/-- ASLB, accumulator (58, R179). -/
def execAslb (s : State) : Outcome State Fault Refusal := .next (unaryAcc shiftLeft .b s)

/-- ASL, indexed (68, R179). -/
def execAslIdx (o : Byte) (s : State) : Outcome State Fault Refusal := .next (unaryMem shiftLeft (.idx o) s)

/-- ASL, extended (78, R179). -/
def execAslExt (w : Word) (s : State) : Outcome State Fault Refusal := .next (unaryMem shiftLeft (.ext w) s)

/-- ASRA, accumulator (47, R180). -/
def execAsra (s : State) : Outcome State Fault Refusal := .next (unaryAcc shiftRightArith .a s)

/-- ASRB, accumulator (57, R180). -/
def execAsrb (s : State) : Outcome State Fault Refusal := .next (unaryAcc shiftRightArith .b s)

/-- ASR, indexed (67, R180). -/
def execAsrIdx (o : Byte) (s : State) : Outcome State Fault Refusal := .next (unaryMem shiftRightArith (.idx o) s)

/-- ASR, extended (77, R180). -/
def execAsrExt (w : Word) (s : State) : Outcome State Fault Refusal := .next (unaryMem shiftRightArith (.ext w) s)

/-- LSRA, accumulator (44, R181). -/
def execLsra (s : State) : Outcome State Fault Refusal := .next (unaryAcc shiftRight .a s)

/-- LSRB, accumulator (54, R181). -/
def execLsrb (s : State) : Outcome State Fault Refusal := .next (unaryAcc shiftRight .b s)

/-- LSR, indexed (64, R181). -/
def execLsrIdx (o : Byte) (s : State) : Outcome State Fault Refusal := .next (unaryMem shiftRight (.idx o) s)

/-- LSR, extended (74, R181). -/
def execLsrExt (w : Word) (s : State) : Outcome State Fault Refusal := .next (unaryMem shiftRight (.ext w) s)

/-- LDAA, immediate (86, R182). -/
def execLdaaImm (m : Byte) (s : State) : Outcome State Fault Refusal := .next (ldaOp .a (.imm m) s)

/-- LDAA, direct (96, R182). -/
def execLdaaDir (d : Byte) (s : State) : Outcome State Fault Refusal := .next (ldaOp .a (.mem (.dir d)) s)

/-- LDAA, indexed (A6, R182). -/
def execLdaaIdx (o : Byte) (s : State) : Outcome State Fault Refusal := .next (ldaOp .a (.mem (.idx o)) s)

/-- LDAA, extended (B6, R182). -/
def execLdaaExt (w : Word) (s : State) : Outcome State Fault Refusal := .next (ldaOp .a (.mem (.ext w)) s)

/-- LDAB, immediate (C6, R182). -/
def execLdabImm (m : Byte) (s : State) : Outcome State Fault Refusal := .next (ldaOp .b (.imm m) s)

/-- LDAB, direct (D6, R182). -/
def execLdabDir (d : Byte) (s : State) : Outcome State Fault Refusal := .next (ldaOp .b (.mem (.dir d)) s)

/-- LDAB, indexed (E6, R182). -/
def execLdabIdx (o : Byte) (s : State) : Outcome State Fault Refusal := .next (ldaOp .b (.mem (.idx o)) s)

/-- LDAB, extended (F6, R182). -/
def execLdabExt (w : Word) (s : State) : Outcome State Fault Refusal := .next (ldaOp .b (.mem (.ext w)) s)

/-- STAA, direct (97, R183). -/
def execStaaDir (d : Byte) (s : State) : Outcome State Fault Refusal := .next (staOp .a (.dir d) s)

/-- STAA, indexed (A7, R183). -/
def execStaaIdx (o : Byte) (s : State) : Outcome State Fault Refusal := .next (staOp .a (.idx o) s)

/-- STAA, extended (B7, R183). -/
def execStaaExt (w : Word) (s : State) : Outcome State Fault Refusal := .next (staOp .a (.ext w) s)

/-- STAB, direct (D7, R183). -/
def execStabDir (d : Byte) (s : State) : Outcome State Fault Refusal := .next (staOp .b (.dir d) s)

/-- STAB, indexed (E7, R183). -/
def execStabIdx (o : Byte) (s : State) : Outcome State Fault Refusal := .next (staOp .b (.idx o) s)

/-- STAB, extended (F7, R183). -/
def execStabExt (w : Word) (s : State) : Outcome State Fault Refusal := .next (staOp .b (.ext w) s)

/-- PSHA, implied (36, R184). -/
def execPsha (s : State) : Outcome State Fault Refusal := .next (pshOp .a s)

/-- PSHB, implied (37, R184). -/
def execPshb (s : State) : Outcome State Fault Refusal := .next (pshOp .b s)

/-- PULA, implied (32, R185). -/
def execPula (s : State) : Outcome State Fault Refusal := .next (pulOp .a s)

/-- PULB, implied (33, R185). -/
def execPulb (s : State) : Outcome State Fault Refusal := .next (pulOp .b s)

/-- TAB, implied (16, R186). -/
def execTab (s : State) : Outcome State Fault Refusal := .next (tabOp s)

/-- TBA, implied (17, R187). -/
def execTba (s : State) : Outcome State Fault Refusal := .next (tbaOp s)

end Sys2Proof.Machine
end

