-- ==== Sys2Proof/Machine/Dispatch.lean ====
section
/-! DEFINITION. One arm per constructor of Instr. -/

namespace Sys2Proof.Machine

open Host

/-- The meaning of one instruction after its bytes have been fetched. -/
def exec (i : Instr) (s : State) : Host.Outcome State Fault Refusal :=
  match i with
  | .nop => Sys2Proof.Machine.execNop s
  | .tap => Sys2Proof.Machine.execTap s
  | .tpa => Sys2Proof.Machine.execTpa s
  | .inx => Sys2Proof.Machine.execInx s
  | .dex => Sys2Proof.Machine.execDex s
  | .clv => Sys2Proof.Machine.execClv s
  | .sev => Sys2Proof.Machine.execSev s
  | .clc => Sys2Proof.Machine.execClc s
  | .sec => Sys2Proof.Machine.execSec s
  | .cli => Sys2Proof.Machine.execCli s
  | .sei => Sys2Proof.Machine.execSei s
  | .sba => Sys2Proof.Machine.execSba s
  | .cba => Sys2Proof.Machine.execCba s
  | .tab => Sys2Proof.Machine.execTab s
  | .tba => Sys2Proof.Machine.execTba s
  | .daa => Sys2Proof.Machine.execDaa s
  | .aba => Sys2Proof.Machine.execAba s
  | .bra r => Sys2Proof.Machine.execBra r s
  | .bhi r => Sys2Proof.Machine.execBhi r s
  | .bls r => Sys2Proof.Machine.execBls r s
  | .bcc r => Sys2Proof.Machine.execBcc r s
  | .bcs r => Sys2Proof.Machine.execBcs r s
  | .bne r => Sys2Proof.Machine.execBne r s
  | .beq r => Sys2Proof.Machine.execBeq r s
  | .bvc r => Sys2Proof.Machine.execBvc r s
  | .bvs r => Sys2Proof.Machine.execBvs r s
  | .bpl r => Sys2Proof.Machine.execBpl r s
  | .bmi r => Sys2Proof.Machine.execBmi r s
  | .bge r => Sys2Proof.Machine.execBge r s
  | .blt r => Sys2Proof.Machine.execBlt r s
  | .bgt r => Sys2Proof.Machine.execBgt r s
  | .ble r => Sys2Proof.Machine.execBle r s
  | .tsx => Sys2Proof.Machine.execTsx s
  | .ins => Sys2Proof.Machine.execIns s
  | .pula => Sys2Proof.Machine.execPula s
  | .pulb => Sys2Proof.Machine.execPulb s
  | .des => Sys2Proof.Machine.execDes s
  | .txs => Sys2Proof.Machine.execTxs s
  | .psha => Sys2Proof.Machine.execPsha s
  | .pshb => Sys2Proof.Machine.execPshb s
  | .rts => Sys2Proof.Machine.execRts s
  | .rti => Sys2Proof.Machine.execRti s
  | .wai => Sys2Proof.Machine.execWai s
  | .swi => Sys2Proof.Machine.execSwi s
  | .nega => Sys2Proof.Machine.execNega s
  | .coma => Sys2Proof.Machine.execComa s
  | .lsra => Sys2Proof.Machine.execLsra s
  | .rora => Sys2Proof.Machine.execRora s
  | .asra => Sys2Proof.Machine.execAsra s
  | .asla => Sys2Proof.Machine.execAsla s
  | .rola => Sys2Proof.Machine.execRola s
  | .deca => Sys2Proof.Machine.execDeca s
  | .inca => Sys2Proof.Machine.execInca s
  | .tsta => Sys2Proof.Machine.execTsta s
  | .clra => Sys2Proof.Machine.execClra s
  | .negb => Sys2Proof.Machine.execNegb s
  | .comb => Sys2Proof.Machine.execComb s
  | .lsrb => Sys2Proof.Machine.execLsrb s
  | .rorb => Sys2Proof.Machine.execRorb s
  | .asrb => Sys2Proof.Machine.execAsrb s
  | .aslb => Sys2Proof.Machine.execAslb s
  | .rolb => Sys2Proof.Machine.execRolb s
  | .decb => Sys2Proof.Machine.execDecb s
  | .incb => Sys2Proof.Machine.execIncb s
  | .tstb => Sys2Proof.Machine.execTstb s
  | .clrb => Sys2Proof.Machine.execClrb s
  | .negIdx o => Sys2Proof.Machine.execNegIdx o s
  | .comIdx o => Sys2Proof.Machine.execComIdx o s
  | .lsrIdx o => Sys2Proof.Machine.execLsrIdx o s
  | .rorIdx o => Sys2Proof.Machine.execRorIdx o s
  | .asrIdx o => Sys2Proof.Machine.execAsrIdx o s
  | .aslIdx o => Sys2Proof.Machine.execAslIdx o s
  | .rolIdx o => Sys2Proof.Machine.execRolIdx o s
  | .decIdx o => Sys2Proof.Machine.execDecIdx o s
  | .incIdx o => Sys2Proof.Machine.execIncIdx o s
  | .tstIdx o => Sys2Proof.Machine.execTstIdx o s
  | .jmpIdx o => Sys2Proof.Machine.execJmpIdx o s
  | .clrIdx o => Sys2Proof.Machine.execClrIdx o s
  | .negExt w => Sys2Proof.Machine.execNegExt w s
  | .comExt w => Sys2Proof.Machine.execComExt w s
  | .lsrExt w => Sys2Proof.Machine.execLsrExt w s
  | .rorExt w => Sys2Proof.Machine.execRorExt w s
  | .asrExt w => Sys2Proof.Machine.execAsrExt w s
  | .aslExt w => Sys2Proof.Machine.execAslExt w s
  | .rolExt w => Sys2Proof.Machine.execRolExt w s
  | .decExt w => Sys2Proof.Machine.execDecExt w s
  | .incExt w => Sys2Proof.Machine.execIncExt w s
  | .tstExt w => Sys2Proof.Machine.execTstExt w s
  | .jmpExt w => Sys2Proof.Machine.execJmpExt w s
  | .clrExt w => Sys2Proof.Machine.execClrExt w s
  | .subaImm m => Sys2Proof.Machine.execSubaImm m s
  | .cmpaImm m => Sys2Proof.Machine.execCmpaImm m s
  | .sbcaImm m => Sys2Proof.Machine.execSbcaImm m s
  | .andaImm m => Sys2Proof.Machine.execAndaImm m s
  | .bitaImm m => Sys2Proof.Machine.execBitaImm m s
  | .ldaaImm m => Sys2Proof.Machine.execLdaaImm m s
  | .eoraImm m => Sys2Proof.Machine.execEoraImm m s
  | .adcaImm m => Sys2Proof.Machine.execAdcaImm m s
  | .oraaImm m => Sys2Proof.Machine.execOraaImm m s
  | .addaImm m => Sys2Proof.Machine.execAddaImm m s
  | .cpxImm w => Sys2Proof.Machine.execCpxImm w s
  | .bsr r => Sys2Proof.Machine.execBsr r s
  | .ldsImm w => Sys2Proof.Machine.execLdsImm w s
  | .subaDir d => Sys2Proof.Machine.execSubaDir d s
  | .cmpaDir d => Sys2Proof.Machine.execCmpaDir d s
  | .sbcaDir d => Sys2Proof.Machine.execSbcaDir d s
  | .andaDir d => Sys2Proof.Machine.execAndaDir d s
  | .bitaDir d => Sys2Proof.Machine.execBitaDir d s
  | .ldaaDir d => Sys2Proof.Machine.execLdaaDir d s
  | .staaDir d => Sys2Proof.Machine.execStaaDir d s
  | .eoraDir d => Sys2Proof.Machine.execEoraDir d s
  | .adcaDir d => Sys2Proof.Machine.execAdcaDir d s
  | .oraaDir d => Sys2Proof.Machine.execOraaDir d s
  | .addaDir d => Sys2Proof.Machine.execAddaDir d s
  | .cpxDir d => Sys2Proof.Machine.execCpxDir d s
  | .ldsDir d => Sys2Proof.Machine.execLdsDir d s
  | .stsDir d => Sys2Proof.Machine.execStsDir d s
  | .subaIdx o => Sys2Proof.Machine.execSubaIdx o s
  | .cmpaIdx o => Sys2Proof.Machine.execCmpaIdx o s
  | .sbcaIdx o => Sys2Proof.Machine.execSbcaIdx o s
  | .andaIdx o => Sys2Proof.Machine.execAndaIdx o s
  | .bitaIdx o => Sys2Proof.Machine.execBitaIdx o s
  | .ldaaIdx o => Sys2Proof.Machine.execLdaaIdx o s
  | .staaIdx o => Sys2Proof.Machine.execStaaIdx o s
  | .eoraIdx o => Sys2Proof.Machine.execEoraIdx o s
  | .adcaIdx o => Sys2Proof.Machine.execAdcaIdx o s
  | .oraaIdx o => Sys2Proof.Machine.execOraaIdx o s
  | .addaIdx o => Sys2Proof.Machine.execAddaIdx o s
  | .cpxIdx o => Sys2Proof.Machine.execCpxIdx o s
  | .jsrIdx o => Sys2Proof.Machine.execJsrIdx o s
  | .ldsIdx o => Sys2Proof.Machine.execLdsIdx o s
  | .stsIdx o => Sys2Proof.Machine.execStsIdx o s
  | .subaExt w => Sys2Proof.Machine.execSubaExt w s
  | .cmpaExt w => Sys2Proof.Machine.execCmpaExt w s
  | .sbcaExt w => Sys2Proof.Machine.execSbcaExt w s
  | .andaExt w => Sys2Proof.Machine.execAndaExt w s
  | .bitaExt w => Sys2Proof.Machine.execBitaExt w s
  | .ldaaExt w => Sys2Proof.Machine.execLdaaExt w s
  | .staaExt w => Sys2Proof.Machine.execStaaExt w s
  | .eoraExt w => Sys2Proof.Machine.execEoraExt w s
  | .adcaExt w => Sys2Proof.Machine.execAdcaExt w s
  | .oraaExt w => Sys2Proof.Machine.execOraaExt w s
  | .addaExt w => Sys2Proof.Machine.execAddaExt w s
  | .cpxExt w => Sys2Proof.Machine.execCpxExt w s
  | .jsrExt w => Sys2Proof.Machine.execJsrExt w s
  | .ldsExt w => Sys2Proof.Machine.execLdsExt w s
  | .stsExt w => Sys2Proof.Machine.execStsExt w s
  | .subbImm m => Sys2Proof.Machine.execSubbImm m s
  | .cmpbImm m => Sys2Proof.Machine.execCmpbImm m s
  | .sbcbImm m => Sys2Proof.Machine.execSbcbImm m s
  | .andbImm m => Sys2Proof.Machine.execAndbImm m s
  | .bitbImm m => Sys2Proof.Machine.execBitbImm m s
  | .ldabImm m => Sys2Proof.Machine.execLdabImm m s
  | .eorbImm m => Sys2Proof.Machine.execEorbImm m s
  | .adcbImm m => Sys2Proof.Machine.execAdcbImm m s
  | .orabImm m => Sys2Proof.Machine.execOrabImm m s
  | .addbImm m => Sys2Proof.Machine.execAddbImm m s
  | .ldxImm w => Sys2Proof.Machine.execLdxImm w s
  | .subbDir d => Sys2Proof.Machine.execSubbDir d s
  | .cmpbDir d => Sys2Proof.Machine.execCmpbDir d s
  | .sbcbDir d => Sys2Proof.Machine.execSbcbDir d s
  | .andbDir d => Sys2Proof.Machine.execAndbDir d s
  | .bitbDir d => Sys2Proof.Machine.execBitbDir d s
  | .ldabDir d => Sys2Proof.Machine.execLdabDir d s
  | .stabDir d => Sys2Proof.Machine.execStabDir d s
  | .eorbDir d => Sys2Proof.Machine.execEorbDir d s
  | .adcbDir d => Sys2Proof.Machine.execAdcbDir d s
  | .orabDir d => Sys2Proof.Machine.execOrabDir d s
  | .addbDir d => Sys2Proof.Machine.execAddbDir d s
  | .ldxDir d => Sys2Proof.Machine.execLdxDir d s
  | .stxDir d => Sys2Proof.Machine.execStxDir d s
  | .subbIdx o => Sys2Proof.Machine.execSubbIdx o s
  | .cmpbIdx o => Sys2Proof.Machine.execCmpbIdx o s
  | .sbcbIdx o => Sys2Proof.Machine.execSbcbIdx o s
  | .andbIdx o => Sys2Proof.Machine.execAndbIdx o s
  | .bitbIdx o => Sys2Proof.Machine.execBitbIdx o s
  | .ldabIdx o => Sys2Proof.Machine.execLdabIdx o s
  | .stabIdx o => Sys2Proof.Machine.execStabIdx o s
  | .eorbIdx o => Sys2Proof.Machine.execEorbIdx o s
  | .adcbIdx o => Sys2Proof.Machine.execAdcbIdx o s
  | .orabIdx o => Sys2Proof.Machine.execOrabIdx o s
  | .addbIdx o => Sys2Proof.Machine.execAddbIdx o s
  | .ldxIdx o => Sys2Proof.Machine.execLdxIdx o s
  | .stxIdx o => Sys2Proof.Machine.execStxIdx o s
  | .subbExt w => Sys2Proof.Machine.execSubbExt w s
  | .cmpbExt w => Sys2Proof.Machine.execCmpbExt w s
  | .sbcbExt w => Sys2Proof.Machine.execSbcbExt w s
  | .andbExt w => Sys2Proof.Machine.execAndbExt w s
  | .bitbExt w => Sys2Proof.Machine.execBitbExt w s
  | .ldabExt w => Sys2Proof.Machine.execLdabExt w s
  | .stabExt w => Sys2Proof.Machine.execStabExt w s
  | .eorbExt w => Sys2Proof.Machine.execEorbExt w s
  | .adcbExt w => Sys2Proof.Machine.execAdcbExt w s
  | .orabExt w => Sys2Proof.Machine.execOrabExt w s
  | .addbExt w => Sys2Proof.Machine.execAddbExt w s
  | .ldxExt w => Sys2Proof.Machine.execLdxExt w s
  | .stxExt w => Sys2Proof.Machine.execStxExt w s

end Sys2Proof.Machine
end

