-- ==== Sys2Proof/Machine/Run.lean ====
section
/-! DEFINITION. The parts of the top-level step (60_exceptions.md R333): the boundary between instructions, the four run
states, and the fetch and execution of one instruction. -/

namespace Sys2Proof.Machine

/-- A step begins: no machine cycle recorded yet, no instruction cut short. -/
def State.begin (s : State) : State := { s with board := { s.board with trace := [], cut := false } }

/-- A Reset pulse is present or has not been served yet (R327). -/
def State.resetAsked (s : State) : Bool := s.board.lines.resetLow || s.board.resetFor.isSome

/-- An IRQ request is present and not masked (R312). -/
def State.irqAsked (s : State) : Bool := s.board.irqLow && !s.cc.i

/-- Fetches the bytes of one instruction and executes it (R92, R333). An unassigned operation code is refused by name
with its address (R103, decision D4). An instruction that Reset cut short at its first byte is abandoned (R327). -/
def State.runInstr (s : State) : Host.Outcome State Fault Refusal :=
  let op := s.fetch8
  if op.2.board.cut then .next op.2
  else
    match decodeOp op.1 with
    | .error _ => .refused (.undefinedOpcode op.1 s.pc)
    | .ok (.f1 i) => exec i op.2
    | .ok (.f2 build) => exec (build op.2.fetch8.1) op.2.fetch8.2
    | .ok (.f3 build) => exec (build op.2.fetch16.1) op.2.fetch16.2

/-- RESET (R38, R400, R402): while Reset is low a machine cycle passes; when it is high again the restart sequence runs
if Reset was low for at least eight cycles of a clock within its limits, else nothing is promised of the MPU's state
(U7, U8; log 12). -/
def State.resetStep (s : State) : State :=
  if s.board.lines.resetLow then s.idle vmaLowUnstated
  else
    match s.board.resetFor with
    | none => if s.board.destroyed then s.scramble else s.restart
    | some n => if n < 8 then s.scramble else s.restart

/-- HALTED (R324, R325): a machine cycle passes while Halt is low; when it is high the MPU resumes at the boundary where
it stopped, with no machine cycle in between. It remembers the one case of decision D10: IRQ was low at some time of the
halt, is high again at its end, and I is 0 (log 10). In all other cases IRQ is its level. -/
def State.haltedStep (s : State) : State :=
  if s.board.lines.haltLow then s.idle .released
  else { s with run := .running, haltIrq := s.haltIrq || (s.board.irqSeen && !s.board.irqLow && !s.cc.i) }

/-- WAITING (R263, R323): Halt defers the wake-up (decision D13); then NMI, then IRQ if I = 0; else the wait goes on. -/
def State.waitingStep (s : State) : State :=
  if s.board.lines.haltLow then s.idle .released
  else if s.board.nmiPending then s.wake vectorNmi
  else if s.irqAsked then s.wake vectorIrq
  else s.idle .released

/-- Halt is low at a boundary: HALTED, and the IRQ line is watched from here on (R324, R325). -/
def State.halt (s : State) : State :=
  { s with run := .halted, board := { s.board with irqSeen := s.board.irqLow } }

/-- The one nondeterministic case of decision D10: an IRQ seen only during a halt is taken or not, by a free choice. -/
def State.haltIrqStep (s : State) : Host.Outcome State Fault Refusal :=
  let d := State.drawBit { s with haltIrq := false }
  if d.1 then .next (d.2.takeInterrupt vectorIrq) else d.2.runInstr

/-- RUNNING at a boundary (R315): Halt, NMI, IRQ if I = 0, else the next instruction. -/
def State.runningStep (s : State) : Host.Outcome State Fault Refusal :=
  if s.board.lines.haltLow then .next s.halt
  else if s.board.nmiPending then .next (s.takeInterrupt vectorNmi)
  else if s.irqAsked then .next (State.takeInterrupt vectorIrq { s with haltIrq := false })
  else if s.haltIrq && !s.cc.i then s.haltIrqStep
  else s.runInstr

/-- One step of the machine (R333): Reset before everything, then violated clock limits (U8), then the run state. DESIGN
CHOICE (log 12): an instruction during which the limits were violated is finished with its own accesses, and the MPU's
state becomes free at this boundary; R71 and R326 do not say when the destruction shows. -/
def State.advance (s0 : State) : Host.Outcome State Fault Refusal :=
  let s := s0.begin
  if s.run = .reset then .next s.resetStep
  else if s.resetAsked then .next { s with run := .reset }
  else if s.board.destroyed then .next s.scramble
  else
    match s.run with
    | .reset => .next s.resetStep
    | .halted => .next s.haltedStep
    | .waiting => .next s.waitingStep
    | .running => s.runningStep

end Sys2Proof.Machine
end

