-- ==== Sys2Proof/Machine/Step.lean ====
section
/-! DEFINITION. The step of the machine and the placing of an instruction where it fetches. -/

namespace Sys2Proof.Machine

/-- One step (60_exceptions.md R333). -/
def step (s : State) : Host.Outcome State Fault Refusal := s.advance

/-- The state with an instruction placed at pc, pc + 1 and pc + 2, past the bus: it stands for loading a program from
outside the machine (log 5). -/
def State.withFetchWord (s : State) (nbits w : Nat) : State :=
  { s with board := s.board.place s.pc (tableBytes nbits w) }

end Sys2Proof.Machine
end

