-- ==== Sys2Proof/Machine/Timing.lean ====
section
/-! DEFINITION. Machine cycles per instruction and per interrupt entry (30_encoding.md R106, 70_reset_and_hazards.md
R411, R412). Data only: no rule's result depends on it (decision D17). -/

namespace Sys2Proof

/-- The machine cycles of an instruction, from its operation-code fetch to its last cycle (R106, R411). -/
def Instr.cycles : Instr → Nat
  | .nop => 2
  | .tap => 2
  | .tpa => 2
  | .clv => 2
  | .sev => 2
  | .clc => 2
  | .sec => 2
  | .cli => 2
  | .sei => 2
  | .sba => 2
  | .cba => 2
  | .tab => 2
  | .tba => 2
  | .daa => 2
  | .aba => 2
  | .nega => 2
  | .coma => 2
  | .lsra => 2
  | .rora => 2
  | .asra => 2
  | .asla => 2
  | .rola => 2
  | .deca => 2
  | .inca => 2
  | .tsta => 2
  | .clra => 2
  | .negb => 2
  | .comb => 2
  | .lsrb => 2
  | .rorb => 2
  | .asrb => 2
  | .aslb => 2
  | .rolb => 2
  | .decb => 2
  | .incb => 2
  | .tstb => 2
  | .clrb => 2
  | .subaImm _ => 2
  | .cmpaImm _ => 2
  | .sbcaImm _ => 2
  | .andaImm _ => 2
  | .bitaImm _ => 2
  | .ldaaImm _ => 2
  | .eoraImm _ => 2
  | .adcaImm _ => 2
  | .oraaImm _ => 2
  | .addaImm _ => 2
  | .subbImm _ => 2
  | .cmpbImm _ => 2
  | .sbcbImm _ => 2
  | .andbImm _ => 2
  | .bitbImm _ => 2
  | .ldabImm _ => 2
  | .eorbImm _ => 2
  | .adcbImm _ => 2
  | .orabImm _ => 2
  | .addbImm _ => 2
  | .jmpExt _ => 3
  | .cpxImm _ => 3
  | .ldsImm _ => 3
  | .subaDir _ => 3
  | .cmpaDir _ => 3
  | .sbcaDir _ => 3
  | .andaDir _ => 3
  | .bitaDir _ => 3
  | .ldaaDir _ => 3
  | .eoraDir _ => 3
  | .adcaDir _ => 3
  | .oraaDir _ => 3
  | .addaDir _ => 3
  | .ldxImm _ => 3
  | .subbDir _ => 3
  | .cmpbDir _ => 3
  | .sbcbDir _ => 3
  | .andbDir _ => 3
  | .bitbDir _ => 3
  | .ldabDir _ => 3
  | .eorbDir _ => 3
  | .adcbDir _ => 3
  | .orabDir _ => 3
  | .addbDir _ => 3
  | .inx => 4
  | .dex => 4
  | .bra _ => 4
  | .bhi _ => 4
  | .bls _ => 4
  | .bcc _ => 4
  | .bcs _ => 4
  | .bne _ => 4
  | .beq _ => 4
  | .bvc _ => 4
  | .bvs _ => 4
  | .bpl _ => 4
  | .bmi _ => 4
  | .bge _ => 4
  | .blt _ => 4
  | .bgt _ => 4
  | .ble _ => 4
  | .tsx => 4
  | .ins => 4
  | .pula => 4
  | .pulb => 4
  | .des => 4
  | .txs => 4
  | .psha => 4
  | .pshb => 4
  | .jmpIdx _ => 4
  | .staaDir _ => 4
  | .cpxDir _ => 4
  | .ldsDir _ => 4
  | .subaExt _ => 4
  | .cmpaExt _ => 4
  | .sbcaExt _ => 4
  | .andaExt _ => 4
  | .bitaExt _ => 4
  | .ldaaExt _ => 4
  | .eoraExt _ => 4
  | .adcaExt _ => 4
  | .oraaExt _ => 4
  | .addaExt _ => 4
  | .stabDir _ => 4
  | .ldxDir _ => 4
  | .subbExt _ => 4
  | .cmpbExt _ => 4
  | .sbcbExt _ => 4
  | .andbExt _ => 4
  | .bitbExt _ => 4
  | .ldabExt _ => 4
  | .eorbExt _ => 4
  | .adcbExt _ => 4
  | .orabExt _ => 4
  | .addbExt _ => 4
  | .rts => 5
  | .stsDir _ => 5
  | .subaIdx _ => 5
  | .cmpaIdx _ => 5
  | .sbcaIdx _ => 5
  | .andaIdx _ => 5
  | .bitaIdx _ => 5
  | .ldaaIdx _ => 5
  | .eoraIdx _ => 5
  | .adcaIdx _ => 5
  | .oraaIdx _ => 5
  | .addaIdx _ => 5
  | .staaExt _ => 5
  | .cpxExt _ => 5
  | .ldsExt _ => 5
  | .stxDir _ => 5
  | .subbIdx _ => 5
  | .cmpbIdx _ => 5
  | .sbcbIdx _ => 5
  | .andbIdx _ => 5
  | .bitbIdx _ => 5
  | .ldabIdx _ => 5
  | .eorbIdx _ => 5
  | .adcbIdx _ => 5
  | .orabIdx _ => 5
  | .addbIdx _ => 5
  | .stabExt _ => 5
  | .ldxExt _ => 5
  | .negExt _ => 6
  | .comExt _ => 6
  | .lsrExt _ => 6
  | .rorExt _ => 6
  | .asrExt _ => 6
  | .aslExt _ => 6
  | .rolExt _ => 6
  | .decExt _ => 6
  | .incExt _ => 6
  | .tstExt _ => 6
  | .clrExt _ => 6
  | .staaIdx _ => 6
  | .cpxIdx _ => 6
  | .ldsIdx _ => 6
  | .stsExt _ => 6
  | .stabIdx _ => 6
  | .ldxIdx _ => 6
  | .stxExt _ => 6
  | .negIdx _ => 7
  | .comIdx _ => 7
  | .lsrIdx _ => 7
  | .rorIdx _ => 7
  | .asrIdx _ => 7
  | .aslIdx _ => 7
  | .rolIdx _ => 7
  | .decIdx _ => 7
  | .incIdx _ => 7
  | .tstIdx _ => 7
  | .clrIdx _ => 7
  | .stsIdx _ => 7
  | .stxIdx _ => 7
  | .bsr _ => 8
  | .jsrIdx _ => 8
  | .wai => 9
  | .jsrExt _ => 9
  | .rti => 10
  | .swi => 12

/-- Interrupt entry from RUNNING takes 12 machine cycles (R412). -/
def entryCycles : Nat := 12

/-- Interrupt entry from WAITING takes 4 machine cycles (R412). -/
def wakeCycles : Nat := 4

end Sys2Proof
end

