-- ==== Sys2Proof/WellFormed.lean ====
section
/-! DEFINITION. What is well formed. Of an instruction there is nothing to check: 30_encoding.md R104 makes every value
of every operand legal, and the operand types hold exactly those values. What can be ill formed is the platform's map
(decision D1, R340, R360, R383). -/

namespace Sys2Proof

/-- Every term of `Instr` is a legal instruction (R104: "every value of an operand byte is legal in every format"). -/
def Instr.wf (_ : Instr) : Bool := true

/-- The region is not empty and lies inside the address space (R50). -/
def Region.inSpace (r : Region) : Bool := decide (0 < r.size) && decide (r.base + r.size ≤ 65536)

/-- A region of a PIA selects some of its four registers (R340), one of an ACIA some of its two (R360). One region of all
four, or both, is the normal wiring of the register selects to the lowest address lines (log 49). -/
def Region.fits (r : Region) : Bool :=
  match r.kind with
  | .pia _ first => decide (first + r.size ≤ 4)
  | .acia _ first => decide (first + r.size ≤ 2)
  | _ => true

/-- No address is in both regions (R383: at most one device answers). -/
def Region.disjoint (r q : Region) : Bool := decide (r.base + r.size ≤ q.base) || decide (q.base + q.size ≤ r.base)

/-- No address is in two regions of the map (D1, R383). -/
def MemMap.disjoint : MemMap → Bool
  | [] => true
  | r :: rest => rest.all (fun q => r.disjoint q) && MemMap.disjoint rest

/-- A mirror repeats addresses of a region that is not itself a mirror (R383; log 41). -/
def Region.mirrors (m : MemMap) (r : Region) : Bool :=
  match r.kind with
  | .mirror target =>
    m.any (fun q =>
      (match q.kind with
        | .mirror _ => false
        | _ => true) &&
        decide (q.base ≤ target) && decide (target + r.size ≤ q.base + q.size))
  | _ => true

/-- The eight vector bytes FFF8 to FFFF are memory, and the restart vector is ROM (D1, R67, R404). -/
def MemMap.vectorsPlaced (m : MemMap) : Bool :=
  (List.range 8).all (fun k => m.isMemory (0xFFF8 + k)) && (!m.isRam 0xFFFE && !m.isRam 0xFFFF)

/-- A map that meets every constraint of decision D1. -/
def MemMap.wf (m : MemMap) : Bool :=
  m.all (fun r => r.inSpace && r.fits && r.mirrors m) && m.disjoint && m.vectorsPlaced

end Sys2Proof
end

