-- ==== Sys2Proof/Safety.lean ====
section
/-! DEFINITION. The terms in which claims about the machine are made: the byte of memory at an address, a quiet board,
what an instruction leaves alone, the arithmetic of the instruction rules as relations, and the machine's invariant. -/

namespace Sys2Proof.Machine

open Host

/-- The outcome of a step of this machine. -/
abbrev Result := Outcome State Fault Refusal

/-! ### Memory as a claim sees it -/

/-- The byte that RAM or ROM holds at an address. -/
def State.byteAt (s : State) (a : Addr) : Byte := s.board.byteAt a.toNat

/-- Two bytes of memory, the high-order byte at `a` (20_memory.md R53). -/
def State.wordAt (s : State) (a : Addr) : Word := s.byteAt a ++ s.byteAt (a + 1)

/-- The address is RAM. -/
def State.isRam (s : State) (a : Addr) : Bool := s.board.map.isRam a.toNat

/-- The address is RAM or ROM. -/
def State.isMemory (s : State) (a : Addr) : Bool := s.board.map.isMemory a.toNat

/-- Both addresses name the same byte of memory: they are equal, or one repeats the other (60_exceptions.md R383). -/
abbrev State.SameByte (s : State) (a c : Addr) : Prop := s.board.map.home a.toNat = s.board.map.home c.toNat

/-- What address `a` reads as after the byte stores `l`, made in this order: the last of them made to its byte, if it is
RAM, and as before otherwise (R68, R383). -/
def State.afterStores (s : State) (l : List (Addr × Byte)) (a : Addr) : Byte :=
  l.foldl (fun old p => if s.SameByte a p.1 ∧ s.isRam a = true then p.2 else old) (s.byteAt a)

/-- Nothing comes from outside in the machine cycles to come: the silent environment of decision D12, Reset high. -/
def Board.Quiet (b : Board) : Prop := b.env = [] ∧ b.lines.resetLow = false ∧ b.cut = false

/-- The board of the state is quiet. -/
def State.Quiet (s : State) : Prop := s.board.Quiet

/-- The memory of the state is in its canonical form. -/
def State.MemoryOk (s : State) : Prop := s.board.mem.wf = true

/-! ### Frames -/

/-- On a quiet board, no byte of memory changes, nor the map, nor the lines. -/
def MemoryKept (s t : State) : Prop :=
  s.Quiet → (∀ a, t.byteAt a = s.byteAt a) ∧ t.board.map = s.board.map ∧ t.board.lines = s.board.lines ∧ t.Quiet

/-- On a quiet board with canonical memory, the stores `l` in this order are all that happens to memory, and the map and
the lines stay. -/
def QuietlyStored (l : List (Addr × Byte)) (s t : State) : Prop :=
  s.Quiet → s.MemoryOk →
    (∀ a, t.byteAt a = s.afterStores l a) ∧ t.board.map = s.board.map ∧ t.board.lines = s.board.lines ∧ t.Quiet

/-- Byte `v` has been stored at `ea`, if that is RAM, and nowhere else (R68). -/
def ByteStored (ea : Addr) (v : Byte) (s t : State) : Prop := QuietlyStored [(ea, v)] s t

/-- The high-order byte of `v` has been stored at `ea`, then the low-order byte at `ea + 1` (R55). -/
def WordStored (ea : Addr) (v : Word) (s t : State) : Prop := QuietlyStored [(ea, hi v), (ea + 1, lo v)] s t

/-- The word `v` has been pushed at SP: the low-order byte at SP, then the high-order byte at SP - 1 (R57). -/
def WordPushed (v : Word) (s t : State) : Prop := QuietlyStored [(s.sp, lo v), (s.sp - 1, hi v)] s t

/-- The condition code register as a byte: bits 7 and 6 are ones, then H I N Z V C (10_state.md R27). -/
def Flags.asByte (f : Flags) : Byte :=
  0b11#2 ++ BitVec.ofBool f.h ++ BitVec.ofBool f.i ++ BitVec.ofBool f.n ++ BitVec.ofBool f.z ++ BitVec.ofBool f.v ++
    BitVec.ofBool f.c

/-- The frame that an entry stacks, in the order of its stores (60_exceptions.md R316, R317). -/
def State.frame (s : State) : List (Addr × Byte) :=
  [(s.sp, lo s.pc), (s.sp - 1, hi s.pc), (s.sp - 2, lo s.x), (s.sp - 3, hi s.x), (s.sp - 4, s.a), (s.sp - 5, s.b),
    (s.sp - 6, s.cc.asByte)]

/-- The seven bytes of the frame have been stored at SP down to SP - 6 (R317). -/
def FrameStored (s t : State) : Prop := QuietlyStored s.frame s t

/-- The byte that a memory operand gives when it is read from this state. -/
def State.loaded (e : MemOperand) (s : State) : Byte := ((Operand8.mem e).read s).1

/-- The two bytes that a 16-bit memory operand gives when it is read from this state. -/
def State.loaded16 (e : MemOperand) (s : State) : Word := ((Operand16.mem e).read s).1

/-! ### The arithmetic of the rules, as relations between old operands and flags and new ones -/

/-- An 8-bit addition with its flags, in the two readings that R131 gives of V. -/
def IsSum (a m : Byte) (c : Bool) (f : Flags) (res : Byte) (f' : Flags) : Prop :=
  res.toNat = (a.toNat + m.toNat + bitNat c) % 256 ∧
    (f'.h = true ↔ 15 < a.toNat % 16 + m.toNat % 16 + bitNat c) ∧
    f'.n = res.getLsbD 7 ∧
    (f'.z = true ↔ res = 0) ∧
    (f'.v = true ↔ a.getLsbD 7 = m.getLsbD 7 ∧ res.getLsbD 7 ≠ a.getLsbD 7) ∧
    (f'.v = true ↔ a.toInt + m.toInt + bitNat c < -128 ∨ 127 < a.toInt + m.toInt + bitNat c) ∧
    (f'.c = true ↔ 255 < a.toNat + m.toNat + bitNat c) ∧
    f'.i = f.i

/-- An 8-bit subtraction with its flags, in the two readings that R132 gives of V; H is kept. -/
def IsDifference (a m : Byte) (c : Bool) (f : Flags) (res : Byte) (f' : Flags) : Prop :=
  (res.toNat : Int) = ((a.toNat : Int) - m.toNat - bitNat c) % 256 ∧
    f'.n = res.getLsbD 7 ∧
    (f'.z = true ↔ res = 0) ∧
    (f'.v = true ↔ a.getLsbD 7 ≠ m.getLsbD 7 ∧ res.getLsbD 7 ≠ a.getLsbD 7) ∧
    (f'.v = true ↔ a.toInt - m.toInt - bitNat c < -128 ∨ 127 < a.toInt - m.toInt - bitNat c) ∧
    (f'.c = true ↔ a.toNat < m.toNat + bitNat c) ∧
    f'.h = f.h ∧ f'.i = f.i

/-- The flags of a logical or moved byte (R170). -/
def IsMoved (res : Byte) (f f' : Flags) : Prop :=
  f'.n = res.getLsbD 7 ∧ (f'.z = true ↔ res = 0) ∧ f'.v = false ∧ f'.c = f.c ∧ f'.h = f.h ∧ f'.i = f.i

/-- The flags of a loaded or stored word (R210). -/
def IsMoved16 (w : Word) (f f' : Flags) : Prop :=
  f'.n = w.getLsbD 15 ∧ (f'.z = true ↔ w = 0) ∧ f'.v = false ∧ f'.c = f.c ∧ f'.h = f.h ∧ f'.i = f.i

/-- A two-operand rule: accumulator, operand, old flags, result, new flags. -/
abbrev BinaryRule := Byte → Byte → Flags → Byte → Flags → Prop

/-- ADD and ABA (R134, R136). -/
def IsAdd : BinaryRule := fun a m f => IsSum a m false f

/-- ADC (R135): the old C is the carry-in. -/
def IsAddCarry : BinaryRule := fun a m f => IsSum a m f.c f

/-- SUB and SBA (R137, R138). -/
def IsSub : BinaryRule := fun a m f => IsDifference a m false f

/-- SBC (R139): the old C is the borrow-in. -/
def IsSubBorrow : BinaryRule := fun a m f => IsDifference a m f.c f

/-- AND (R172), bit by bit. -/
def IsAnd : BinaryRule := fun a m f res f' =>
  (∀ k < 8, res.getLsbD k = (a.getLsbD k && m.getLsbD k)) ∧ IsMoved res f f'

/-- ORA (R174), bit by bit. -/
def IsOr : BinaryRule := fun a m f res f' =>
  (∀ k < 8, res.getLsbD k = (a.getLsbD k || m.getLsbD k)) ∧ IsMoved res f f'

/-- EOR (R175), bit by bit. -/
def IsExclusiveOr : BinaryRule := fun a m f res f' =>
  (∀ k < 8, res.getLsbD k = (a.getLsbD k ^^ m.getLsbD k)) ∧ IsMoved res f f'

/-- LDA (R182). -/
def IsLoad : BinaryRule := fun _ m f res f' => res = m ∧ IsMoved res f f'

/-- CMP and CBA (R140, R141): the flags of the subtraction, and how the branch tests read them. -/
def IsCompared (a m : Byte) (f f' : Flags) : Prop :=
  (∃ res, IsDifference a m false f res f') ∧ (f'.z = true ↔ a = m) ∧ (f'.c = true ↔ a.toNat < m.toNat) ∧
    ((f'.n ^^ f'.v) = true ↔ a.toInt < m.toInt)

/-- BIT (R173): the flags of the AND. -/
def IsBitTested (a m : Byte) (f f' : Flags) : Prop := ∃ res, IsAnd a m f res f'

/-- CPX (R211): N and V from the high-order bytes without a borrow (decision D16), Z from all 16 bits. -/
def IsCompared16 (x w : Word) (f f' : Flags) : Prop :=
  (∃ dh f1, IsDifference (hi x) (hi w) false f dh f1 ∧ f'.n = f1.n ∧ f'.v = f1.v) ∧ (f'.z = true ↔ x = w) ∧
    f'.h = f.h ∧ f'.i = f.i ∧ f'.c = f.c

/-- The flags of a shift or rotate of which `out` is the bit shifted out (R171). -/
def IsShifted (res : Byte) (out : Bool) (f f' : Flags) : Prop :=
  f'.n = res.getLsbD 7 ∧ (f'.z = true ↔ res = 0) ∧ f'.c = out ∧ f'.v = (f'.n ^^ f'.c) ∧ f'.h = f.h ∧ f'.i = f.i

/-- A one-operand rule: the old operand and flags, the new operand and flags (R133). -/
abbrev UnaryRule := Byte → Flags → Byte → Flags → Prop

/-- NEG (R142); its flags are also those of the subtraction from 0. -/
def IsNegated : UnaryRule := fun v f res f' =>
  (res.toNat : Int) = (-(v.toNat : Int)) % 256 ∧ f'.n = res.getLsbD 7 ∧ (f'.z = true ↔ res = 0) ∧
    (f'.v = true ↔ res = 0x80) ∧ (f'.c = true ↔ res ≠ 0) ∧ f'.h = f.h ∧ f'.i = f.i ∧ IsDifference 0 v false f res f'

/-- INC (R144). -/
def IsIncremented : UnaryRule := fun v f res f' =>
  res.toNat = (v.toNat + 1) % 256 ∧ f'.n = res.getLsbD 7 ∧ (f'.z = true ↔ res = 0) ∧
    (f'.v = true ↔ v = 0x7F) ∧ f'.c = f.c ∧ f'.h = f.h ∧ f'.i = f.i

/-- DEC (R145). -/
def IsDecremented : UnaryRule := fun v f res f' =>
  (res.toNat : Int) = ((v.toNat : Int) - 1) % 256 ∧ f'.n = res.getLsbD 7 ∧ (f'.z = true ↔ res = 0) ∧
    (f'.v = true ↔ v = 0x80) ∧ f'.c = f.c ∧ f'.h = f.h ∧ f'.i = f.i

/-- CLR (R146). -/
def IsCleared : UnaryRule := fun _ f res f' =>
  res = 0 ∧ f'.n = false ∧ f'.z = true ∧ f'.v = false ∧ f'.c = false ∧ f'.h = f.h ∧ f'.i = f.i

/-- COM (R176). -/
def IsComplemented : UnaryRule := fun v f res f' =>
  res.toNat = 255 - v.toNat ∧ f'.n = res.getLsbD 7 ∧ (f'.z = true ↔ res = 0) ∧ f'.v = false ∧ f'.c = true ∧
    f'.h = f.h ∧ f'.i = f.i

/-- ROL (R177). -/
def IsRotatedLeft : UnaryRule := fun v f res f' =>
  (∀ k < 7, res.getLsbD (k + 1) = v.getLsbD k) ∧ res.getLsbD 0 = f.c ∧ IsShifted res (v.getLsbD 7) f f'

/-- ROR (R178). -/
def IsRotatedRight : UnaryRule := fun v f res f' =>
  (∀ k < 7, res.getLsbD k = v.getLsbD (k + 1)) ∧ res.getLsbD 7 = f.c ∧ f'.v = (f.c ^^ v.getLsbD 0) ∧
    IsShifted res (v.getLsbD 0) f f'

/-- ASL (R179). -/
def IsShiftedLeft : UnaryRule := fun v f res f' =>
  (∀ k < 7, res.getLsbD (k + 1) = v.getLsbD k) ∧ res.getLsbD 0 = false ∧
    f'.v = (v.getLsbD 6 ^^ v.getLsbD 7) ∧ IsShifted res (v.getLsbD 7) f f'

/-- ASR (R180): the signed value halved, rounded down. -/
def IsHalvedSigned : UnaryRule := fun v f res f' =>
  (∀ k < 7, res.getLsbD k = v.getLsbD (k + 1)) ∧ res.getLsbD 7 = v.getLsbD 7 ∧ res.toInt = v.toInt / 2 ∧
    IsShifted res (v.getLsbD 0) f f'

/-- LSR (R181): the unsigned value halved; N is 0 and V equals C. -/
def IsHalved : UnaryRule := fun v f res f' =>
  res.toNat = v.toNat / 2 ∧ f'.n = false ∧ f'.v = f'.c ∧ IsShifted res (v.getLsbD 0) f f'

/-- TST (R147): only flags. -/
def IsTested (v : Byte) (f f' : Flags) : Prop :=
  f'.n = v.getLsbD 7 ∧ (f'.z = true ↔ v = 0) ∧ f'.v = false ∧ f'.c = false ∧ f'.h = f.h ∧ f'.i = f.i

/-! ### Completion: what a meaning answers, with its frame -/

/-- The meaning completes, writing accumulator `r` and the flags so that `R` holds of the new byte and flags; every
other register and every byte of memory is as before. -/
def WritesAcc (r : Acc) (R : Byte → Flags → Prop) (s : State) (out : Result) : Prop :=
  ∃ t, out = .next t ∧ R (t.acc r) t.cc ∧ t = { s.setAcc r (t.acc r) with cc := t.cc, board := t.board } ∧ MemoryKept s t

/-- The meaning completes, writing the flags alone so that `R` holds of them. -/
def WritesFlags (R : Flags → Prop) (s : State) (out : Result) : Prop :=
  ∃ t, out = .next t ∧ R t.cc ∧ t = { s with cc := t.cc, board := t.board } ∧ MemoryKept s t

/-- The eight forms of a two-operand instruction (R106, R107): immediate, direct, indexed and extended, on A and on B. -/
def BinaryForms (R : BinaryRule) (s : State) (m d o : Byte) (w : Word)
    (aImm aDir aIdx aExt bImm bDir bIdx bExt : Result) : Prop :=
  WritesAcc .a (R s.a m s.cc) s aImm ∧ WritesAcc .a (R s.a (s.loaded (.dir d)) s.cc) s aDir ∧
    WritesAcc .a (R s.a (s.loaded (.idx o)) s.cc) s aIdx ∧ WritesAcc .a (R s.a (s.loaded (.ext w)) s.cc) s aExt ∧
    WritesAcc .b (R s.b m s.cc) s bImm ∧ WritesAcc .b (R s.b (s.loaded (.dir d)) s.cc) s bDir ∧
    WritesAcc .b (R s.b (s.loaded (.idx o)) s.cc) s bIdx ∧ WritesAcc .b (R s.b (s.loaded (.ext w)) s.cc) s bExt

/-- The eight forms of a two-operand instruction that writes flags alone. -/
def FlagForms (R : Byte → Byte → Flags → Flags → Prop) (s : State) (m d o : Byte) (w : Word)
    (aImm aDir aIdx aExt bImm bDir bIdx bExt : Result) : Prop :=
  WritesFlags (R s.a m s.cc) s aImm ∧ WritesFlags (R s.a (s.loaded (.dir d)) s.cc) s aDir ∧
    WritesFlags (R s.a (s.loaded (.idx o)) s.cc) s aIdx ∧ WritesFlags (R s.a (s.loaded (.ext w)) s.cc) s aExt ∧
    WritesFlags (R s.b m s.cc) s bImm ∧ WritesFlags (R s.b (s.loaded (.dir d)) s.cc) s bDir ∧
    WritesFlags (R s.b (s.loaded (.idx o)) s.cc) s bIdx ∧ WritesFlags (R s.b (s.loaded (.ext w)) s.cc) s bExt

/-- The meaning completes, writing the flags and storing at the operand's address the byte that `R` relates to the
byte read there. -/
def RewritesMemory (e : MemOperand) (R : UnaryRule) (s : State) (out : Result) : Prop :=
  ∃ t res, out = .next t ∧ R (s.loaded e) s.cc res t.cc ∧ t = { s with cc := t.cc, board := t.board } ∧
    ByteStored (e.ea s) res s t

/-- The four forms of a one-operand instruction (R133). -/
def UnaryForms (R : UnaryRule) (s : State) (o : Byte) (w : Word) (outA outB outIdx outExt : Result) : Prop :=
  WritesAcc .a (R s.a s.cc) s outA ∧ WritesAcc .b (R s.b s.cc) s outB ∧
    RewritesMemory (.idx o) R s outIdx ∧ RewritesMemory (.ext w) R s outExt

/-- The meaning completes, storing the byte `v` at the operand's address with the flags of R170 and nothing else. -/
def StoresByte (e : MemOperand) (v : Byte) (s : State) (out : Result) : Prop :=
  ∃ t, out = .next t ∧ IsMoved v s.cc t.cc ∧ t = { s with cc := t.cc, board := t.board } ∧ ByteStored (e.ea s) v s t

/-- The meaning completes, storing the word `v` at the operand's address with the flags of R210 and nothing else. -/
def StoresWord (e : MemOperand) (v : Word) (s : State) (out : Result) : Prop :=
  ∃ t, out = .next t ∧ IsMoved16 v s.cc t.cc ∧ t = { s with cc := t.cc, board := t.board } ∧ WordStored (e.ea s) v s t

/-- The meaning completes, leaving every register but those that `f` changes, and all of memory, as before. -/
def Becomes (f : State → State) (s : State) (out : Result) : Prop :=
  ∃ t, out = .next t ∧ t = { f s with board := t.board } ∧ MemoryKept s t

/-- The meaning completes with pc at the branch target if `test` holds, else where it was (R99, R240). -/
def Branches (test : Bool) (r : Byte) (s : State) (out : Result) : Prop :=
  ∃ t, out = .next t ∧
    (t.pc.toNat : Int) = (if test then ((s.pc.toNat : Int) + r.toInt) % 65536 else s.pc.toNat) ∧
    t = { s with pc := t.pc, board := t.board } ∧ MemoryKept s t

/-- The meaning completes as a subroutine call: the return address stacked, SP lowered by 2, pc at `target`. -/
def Calls (target : Addr) (s : State) (out : Result) : Prop :=
  ∃ t, out = .next t ∧ t = { s with pc := target, sp := s.sp - 2, board := t.board } ∧ WordPushed s.pc s t

/-! ### Boundaries -/

/-- The MPU is RUNNING at a boundary between instructions: no Reset, clock limits kept, and no event to come. -/
def State.AtBoundary (s : State) : Prop :=
  s.run = .running ∧ s.resetAsked = false ∧ s.board.destroyed = false ∧ s.board.env = []

/-- At a boundary with nothing to serve: Halt high, no NMI latched, no IRQ that I lets through and none remembered
from a halt. The next step runs an instruction (R315). -/
def State.Ready (s : State) : Prop :=
  s.AtBoundary ∧ s.board.lines.haltLow = false ∧ s.board.nmiPending = false ∧ s.irqAsked = false ∧
    (s.haltIrq && !s.cc.i) = false

/-- The bytes of instruction `i` stand in RAM or ROM at pc. -/
def State.Holds (s : State) (i : Instr) : Prop :=
  ∀ k (h : k < (encode i).length),
    s.isMemory (s.pc + BitVec.ofNat 16 k) = true ∧ s.byteAt (s.pc + BitVec.ofNat 16 k) = (encode i)[k]

/-- The seven addresses of a frame read upward from SP + 1 are RAM or ROM. -/
def State.FrameReadable (s : State) : Prop := ∀ k < 7, s.isMemory (s.sp + 1 + BitVec.ofNat 16 k) = true

/-- The addresses `l` are RAM, and no two of them the same byte of it: the stack discipline of R407. -/
def State.Writable (s : State) (l : List Addr) : Prop :=
  (∀ a ∈ l, s.isRam a = true) ∧ l.Pairwise (fun a c => ¬s.SameByte a c)

/-- The seven addresses of a frame written downward from SP. -/
def State.frameAddrs (s : State) : List Addr := s.frame.map Prod.fst

/-- Both bytes of a vector are RAM or ROM (R319). -/
def State.VectorReadable (s : State) (vec : Addr) : Prop := s.isMemory vec = true ∧ s.isMemory (vec + 1) = true

/-! ### Which instructions write what (10_state.md R22, R25, R28, R29, R33, R34) -/

/-- The instructions that write flag I. -/
def writesI (i : Instr) : Bool :=
  match i with
  | .cli => true
  | .sei => true
  | .tap => true
  | .rti => true
  | .swi => true
  | _ => false

/-- The instructions that write flag H. -/
def writesH (i : Instr) : Bool :=
  match i with
  | .aba => true
  | .adcaImm _ => true
  | .adcaDir _ => true
  | .adcaIdx _ => true
  | .adcaExt _ => true
  | .adcbImm _ => true
  | .adcbDir _ => true
  | .adcbIdx _ => true
  | .adcbExt _ => true
  | .addaImm _ => true
  | .addaDir _ => true
  | .addaIdx _ => true
  | .addaExt _ => true
  | .addbImm _ => true
  | .addbDir _ => true
  | .addbIdx _ => true
  | .addbExt _ => true
  | .tap => true
  | .rti => true
  | _ => false

/-- The instructions that write X. -/
def writesX (i : Instr) : Bool :=
  match i with
  | .ldxImm _ => true
  | .ldxDir _ => true
  | .ldxIdx _ => true
  | .ldxExt _ => true
  | .tsx => true
  | .dex => true
  | .inx => true
  | .rti => true
  | _ => false

/-- The instructions that write SP: LDS, TXS, DES, INS and every push and pull. -/
def writesSp (i : Instr) : Bool :=
  match i with
  | .ldsImm _ => true
  | .ldsDir _ => true
  | .ldsIdx _ => true
  | .ldsExt _ => true
  | .txs => true
  | .des => true
  | .ins => true
  | .psha => true
  | .pshb => true
  | .pula => true
  | .pulb => true
  | .bsr _ => true
  | .jsrIdx _ => true
  | .jsrExt _ => true
  | .rts => true
  | .rti => true
  | .swi => true
  | .wai => true
  | _ => false

/-- The 59 operation codes that R103 lists as unassigned. -/
def unassignedCodes : List Byte :=
  [0x00, 0x02, 0x03, 0x04, 0x05, 0x12, 0x13, 0x14, 0x15, 0x18, 0x1A, 0x1C, 0x1D, 0x1E, 0x1F, 0x21, 0x38, 0x3A, 0x3C,
    0x3D] ++
  [0x41, 0x42, 0x45, 0x4B, 0x4E, 0x51, 0x52, 0x55, 0x5B, 0x5E, 0x61, 0x62, 0x65, 0x6B, 0x71, 0x72, 0x75, 0x7B, 0x83,
    0x87] ++
  [0x8F, 0x93, 0x9D, 0xA3, 0xB3, 0xC3, 0xC7, 0xCC, 0xCD, 0xCF, 0xD3, 0xDC, 0xDD, 0xE3, 0xEC, 0xED, 0xF3, 0xFC, 0xFD]

/-! ### The bus cycles of each instruction (20_memory.md R61, R63 to R65, R413) -/

/-- What a machine cycle shows on the bus, without the data: VMA, R/W and the address bus (10_state.md R40). -/
inductive BusUse where
  | read (a : Addr)
  | write (a : Addr)
  | internal (bus : Option Addr)
  | released
  deriving DecidableEq, Repr

/-- The bus use of a recorded cycle. -/
def BusCycle.use (c : BusCycle) : BusUse :=
  match c with
  | .read a _ => .read a
  | .write a _ => .write a
  | .internal bus => .internal bus
  | .released => .released

/-- A VMA = 0 cycle with `a` on the address bus (R65). -/
def BusUse.shows (a : Addr) : BusUse := .internal (some a)

/-- A VMA = 0 cycle of whose address bus the spec says nothing. -/
def BusUse.blank : BusUse := .internal none

/-- "Index Register", then "Index Register Plus Offset (w/o Carry)": the low-order byte of the sum modulo 256 below the
high-order byte of X (R65). -/
def State.indexing (s : State) (o : Byte) : List BusUse :=
  [.shows s.x, .shows (BitVec.ofNat 16 (s.x.toNat / 256 * 256 + (s.x.toNat % 256 + o.toNat) % 256))]

/-- The machine cycles of an instruction after the fetch of its bytes, in Table 8's order, from the state after that
fetch: data accesses, the VMA = 1 reads of R64 and the VMA = 0 cycles of R65. -/
def busPattern (i : Instr) (s : State) : List BusUse :=
  let ea := fun e : MemOperand => e.ea s
  match i with
  | .nop => [.read s.pc]
  | .tap => [.read s.pc]
  | .tpa => [.read s.pc]
  | .clv => [.read s.pc]
  | .sev => [.read s.pc]
  | .clc => [.read s.pc]
  | .sec => [.read s.pc]
  | .cli => [.read s.pc]
  | .sei => [.read s.pc]
  | .sba => [.read s.pc]
  | .cba => [.read s.pc]
  | .tab => [.read s.pc]
  | .tba => [.read s.pc]
  | .daa => [.read s.pc]
  | .aba => [.read s.pc]
  | .nega => [.read s.pc]
  | .coma => [.read s.pc]
  | .lsra => [.read s.pc]
  | .rora => [.read s.pc]
  | .asra => [.read s.pc]
  | .asla => [.read s.pc]
  | .rola => [.read s.pc]
  | .deca => [.read s.pc]
  | .inca => [.read s.pc]
  | .tsta => [.read s.pc]
  | .clra => [.read s.pc]
  | .negb => [.read s.pc]
  | .comb => [.read s.pc]
  | .lsrb => [.read s.pc]
  | .rorb => [.read s.pc]
  | .asrb => [.read s.pc]
  | .aslb => [.read s.pc]
  | .rolb => [.read s.pc]
  | .decb => [.read s.pc]
  | .incb => [.read s.pc]
  | .tstb => [.read s.pc]
  | .clrb => [.read s.pc]
  | .subaImm _ => []
  | .cmpaImm _ => []
  | .sbcaImm _ => []
  | .andaImm _ => []
  | .bitaImm _ => []
  | .ldaaImm _ => []
  | .eoraImm _ => []
  | .adcaImm _ => []
  | .oraaImm _ => []
  | .addaImm _ => []
  | .subbImm _ => []
  | .cmpbImm _ => []
  | .sbcbImm _ => []
  | .andbImm _ => []
  | .bitbImm _ => []
  | .ldabImm _ => []
  | .eorbImm _ => []
  | .adcbImm _ => []
  | .orabImm _ => []
  | .addbImm _ => []
  | .cpxImm _ => []
  | .ldsImm _ => []
  | .ldxImm _ => []
  | .jmpExt _ => []
  | .jmpIdx o => s.indexing o
  | .bra _ => [.blank, .blank]
  | .bhi _ => [.blank, .blank]
  | .bls _ => [.blank, .blank]
  | .bcc _ => [.blank, .blank]
  | .bcs _ => [.blank, .blank]
  | .bne _ => [.blank, .blank]
  | .beq _ => [.blank, .blank]
  | .bvc _ => [.blank, .blank]
  | .bvs _ => [.blank, .blank]
  | .bpl _ => [.blank, .blank]
  | .bmi _ => [.blank, .blank]
  | .bge _ => [.blank, .blank]
  | .blt _ => [.blank, .blank]
  | .bgt _ => [.blank, .blank]
  | .ble _ => [.blank, .blank]
  | .subaDir d => [.read (ea (.dir d))]
  | .cmpaDir d => [.read (ea (.dir d))]
  | .sbcaDir d => [.read (ea (.dir d))]
  | .andaDir d => [.read (ea (.dir d))]
  | .bitaDir d => [.read (ea (.dir d))]
  | .ldaaDir d => [.read (ea (.dir d))]
  | .eoraDir d => [.read (ea (.dir d))]
  | .adcaDir d => [.read (ea (.dir d))]
  | .oraaDir d => [.read (ea (.dir d))]
  | .addaDir d => [.read (ea (.dir d))]
  | .subbDir d => [.read (ea (.dir d))]
  | .cmpbDir d => [.read (ea (.dir d))]
  | .sbcbDir d => [.read (ea (.dir d))]
  | .andbDir d => [.read (ea (.dir d))]
  | .bitbDir d => [.read (ea (.dir d))]
  | .ldabDir d => [.read (ea (.dir d))]
  | .eorbDir d => [.read (ea (.dir d))]
  | .adcbDir d => [.read (ea (.dir d))]
  | .orabDir d => [.read (ea (.dir d))]
  | .addbDir d => [.read (ea (.dir d))]
  | .cpxDir d => [.read (ea (.dir d)), .read (ea (.dir d) + 1)]
  | .ldsDir d => [.read (ea (.dir d)), .read (ea (.dir d) + 1)]
  | .ldxDir d => [.read (ea (.dir d)), .read (ea (.dir d) + 1)]
  | .staaDir d => [.shows (ea (.dir d)), .write (ea (.dir d))]
  | .stabDir d => [.shows (ea (.dir d)), .write (ea (.dir d))]
  | .stsDir d => [.shows (ea (.dir d)), .write (ea (.dir d)), .write (ea (.dir d) + 1)]
  | .stxDir d => [.shows (ea (.dir d)), .write (ea (.dir d)), .write (ea (.dir d) + 1)]
  | .subaIdx o => s.indexing o ++ [.read (ea (.idx o))]
  | .cmpaIdx o => s.indexing o ++ [.read (ea (.idx o))]
  | .sbcaIdx o => s.indexing o ++ [.read (ea (.idx o))]
  | .andaIdx o => s.indexing o ++ [.read (ea (.idx o))]
  | .bitaIdx o => s.indexing o ++ [.read (ea (.idx o))]
  | .ldaaIdx o => s.indexing o ++ [.read (ea (.idx o))]
  | .eoraIdx o => s.indexing o ++ [.read (ea (.idx o))]
  | .adcaIdx o => s.indexing o ++ [.read (ea (.idx o))]
  | .oraaIdx o => s.indexing o ++ [.read (ea (.idx o))]
  | .addaIdx o => s.indexing o ++ [.read (ea (.idx o))]
  | .subbIdx o => s.indexing o ++ [.read (ea (.idx o))]
  | .cmpbIdx o => s.indexing o ++ [.read (ea (.idx o))]
  | .sbcbIdx o => s.indexing o ++ [.read (ea (.idx o))]
  | .andbIdx o => s.indexing o ++ [.read (ea (.idx o))]
  | .bitbIdx o => s.indexing o ++ [.read (ea (.idx o))]
  | .ldabIdx o => s.indexing o ++ [.read (ea (.idx o))]
  | .eorbIdx o => s.indexing o ++ [.read (ea (.idx o))]
  | .adcbIdx o => s.indexing o ++ [.read (ea (.idx o))]
  | .orabIdx o => s.indexing o ++ [.read (ea (.idx o))]
  | .addbIdx o => s.indexing o ++ [.read (ea (.idx o))]
  | .cpxIdx o => s.indexing o ++ [.read (ea (.idx o)), .read (ea (.idx o) + 1)]
  | .ldsIdx o => s.indexing o ++ [.read (ea (.idx o)), .read (ea (.idx o) + 1)]
  | .ldxIdx o => s.indexing o ++ [.read (ea (.idx o)), .read (ea (.idx o) + 1)]
  | .staaIdx o => s.indexing o ++ [.shows (ea (.idx o)), .write (ea (.idx o))]
  | .stabIdx o => s.indexing o ++ [.shows (ea (.idx o)), .write (ea (.idx o))]
  | .stsIdx o => s.indexing o ++ [.shows (ea (.idx o)), .write (ea (.idx o)), .write (ea (.idx o) + 1)]
  | .stxIdx o => s.indexing o ++ [.shows (ea (.idx o)), .write (ea (.idx o)), .write (ea (.idx o) + 1)]
  | .negIdx o => s.indexing o ++ [.read (ea (.idx o)), .blank, .write (ea (.idx o))]
  | .comIdx o => s.indexing o ++ [.read (ea (.idx o)), .blank, .write (ea (.idx o))]
  | .lsrIdx o => s.indexing o ++ [.read (ea (.idx o)), .blank, .write (ea (.idx o))]
  | .rorIdx o => s.indexing o ++ [.read (ea (.idx o)), .blank, .write (ea (.idx o))]
  | .asrIdx o => s.indexing o ++ [.read (ea (.idx o)), .blank, .write (ea (.idx o))]
  | .aslIdx o => s.indexing o ++ [.read (ea (.idx o)), .blank, .write (ea (.idx o))]
  | .rolIdx o => s.indexing o ++ [.read (ea (.idx o)), .blank, .write (ea (.idx o))]
  | .decIdx o => s.indexing o ++ [.read (ea (.idx o)), .blank, .write (ea (.idx o))]
  | .incIdx o => s.indexing o ++ [.read (ea (.idx o)), .blank, .write (ea (.idx o))]
  | .clrIdx o => s.indexing o ++ [.read (ea (.idx o)), .blank, .write (ea (.idx o))]
  | .tstIdx o => s.indexing o ++ [.read (ea (.idx o)), .blank, .shows (ea (.idx o))]
  | .subaExt w => [.read (ea (.ext w))]
  | .cmpaExt w => [.read (ea (.ext w))]
  | .sbcaExt w => [.read (ea (.ext w))]
  | .andaExt w => [.read (ea (.ext w))]
  | .bitaExt w => [.read (ea (.ext w))]
  | .ldaaExt w => [.read (ea (.ext w))]
  | .eoraExt w => [.read (ea (.ext w))]
  | .adcaExt w => [.read (ea (.ext w))]
  | .oraaExt w => [.read (ea (.ext w))]
  | .addaExt w => [.read (ea (.ext w))]
  | .subbExt w => [.read (ea (.ext w))]
  | .cmpbExt w => [.read (ea (.ext w))]
  | .sbcbExt w => [.read (ea (.ext w))]
  | .andbExt w => [.read (ea (.ext w))]
  | .bitbExt w => [.read (ea (.ext w))]
  | .ldabExt w => [.read (ea (.ext w))]
  | .eorbExt w => [.read (ea (.ext w))]
  | .adcbExt w => [.read (ea (.ext w))]
  | .orabExt w => [.read (ea (.ext w))]
  | .addbExt w => [.read (ea (.ext w))]
  | .cpxExt w => [.read (ea (.ext w)), .read (ea (.ext w) + 1)]
  | .ldsExt w => [.read (ea (.ext w)), .read (ea (.ext w) + 1)]
  | .ldxExt w => [.read (ea (.ext w)), .read (ea (.ext w) + 1)]
  | .staaExt w => [.shows (ea (.ext w)), .write (ea (.ext w))]
  | .stabExt w => [.shows (ea (.ext w)), .write (ea (.ext w))]
  | .stsExt w => [.shows (ea (.ext w)), .write (ea (.ext w)), .write (ea (.ext w) + 1)]
  | .stxExt w => [.shows (ea (.ext w)), .write (ea (.ext w)), .write (ea (.ext w) + 1)]
  | .negExt w => [.read (ea (.ext w)), .blank, .write (ea (.ext w))]
  | .comExt w => [.read (ea (.ext w)), .blank, .write (ea (.ext w))]
  | .lsrExt w => [.read (ea (.ext w)), .blank, .write (ea (.ext w))]
  | .rorExt w => [.read (ea (.ext w)), .blank, .write (ea (.ext w))]
  | .asrExt w => [.read (ea (.ext w)), .blank, .write (ea (.ext w))]
  | .aslExt w => [.read (ea (.ext w)), .blank, .write (ea (.ext w))]
  | .rolExt w => [.read (ea (.ext w)), .blank, .write (ea (.ext w))]
  | .decExt w => [.read (ea (.ext w)), .blank, .write (ea (.ext w))]
  | .incExt w => [.read (ea (.ext w)), .blank, .write (ea (.ext w))]
  | .clrExt w => [.read (ea (.ext w)), .blank, .write (ea (.ext w))]
  | .tstExt w => [.read (ea (.ext w)), .blank, .shows (ea (.ext w))]
  | .inx => [.read s.pc, .shows s.x, .blank]
  | .dex => [.read s.pc, .shows s.x, .blank]
  | .tsx => [.read s.pc, .blank, .blank]
  | .ins => [.read s.pc, .shows s.sp, .blank]
  | .des => [.read s.pc, .shows s.sp, .blank]
  | .txs => [.read s.pc, .blank, .blank]
  | .psha => [.read s.pc, .write s.sp, .shows (s.sp - 1)]
  | .pshb => [.read s.pc, .write s.sp, .shows (s.sp - 1)]
  | .pula => [.read s.pc, .shows s.sp, .read (s.sp + 1)]
  | .pulb => [.read s.pc, .shows s.sp, .read (s.sp + 1)]
  | .bsr r =>
    [.shows s.pc, .write s.sp, .write (s.sp - 1), .shows (s.sp - 2), .shows (s.pc + r.signExtend 16),
      .shows (s.pc + r.signExtend 16)]
  | .jsrIdx o => [.shows s.x, .write s.sp, .write (s.sp - 1), .shows (s.sp - 2)] ++ s.indexing o
  | .jsrExt w =>
    [.read w, .write s.sp, .write (s.sp - 1), .shows (s.sp - 2), .shows (s.pc - 1), .read (s.pc - 1)]
  | .rts => [.read s.pc, .shows s.sp, .read (s.sp + 1), .read (s.sp + 2)]
  | .rti => [.read s.pc, .shows s.sp] ++ (List.range 7).map (fun k => .read (s.sp + 1 + BitVec.ofNat 16 k))
  | .swi => [.read s.pc] ++ (List.range 7).map (fun k => .write (s.sp - BitVec.ofNat 16 k)) ++
    [.shows (s.sp - 7), .read 0xFFFA, .read 0xFFFB]
  | .wai => [.read s.pc] ++ (List.range 7).map (fun k => .write (s.sp - BitVec.ofNat 16 k))

/-! ### The invariant -/

/-- Every device region of the map names a device of the board. -/
def Board.devicesExist (b : Board) : Bool :=
  b.map.all (fun r =>
    match r.kind with
    | .pia n _ => decide (n < b.pias.length)
    | .acia n _ => decide (n < b.acias.length)
    | _ => true)

/-- In the two level output modes of C2 the line follows control bit 3 (R353, R354). -/
def PiaSide.ok (p : PiaSide) : Bool := !(p.c2IsOutput && p.bit4) || (p.c2out == p.bit3)

/-- All six registers of the PIA are zero (R343). -/
def Pia.cleared (p : Pia) : Bool :=
  decide (p.sideA.out = 0 ∧ p.sideA.ddr = 0 ∧ p.sideA.ctl = 0 ∧ p.sideB.out = 0 ∧ p.sideB.ddr = 0 ∧ p.sideB.ctl = 0)

/-- A PIA whose Reset pin is low, which for a wired one is the system's reset line, is cleared (R343). -/
def Pia.heldClear (systemLow : Bool) (p : Pia) : Bool :=
  !(if p.resetWired then systemLow else p.resetLow) || p.cleared

/-- Both sides of the PIA are as `PiaSide.ok` says. -/
def Pia.ok (p : Pia) : Bool := p.sideA.ok && p.sideB.ok

/-- While DCD is high the receiver is held initialised: no overrun is recorded or shown (R370, R377; log 46). -/
def Acia.receiverHeld (p : Acia) : Bool := !p.dcd || (!p.ovrn && !p.ovrnPending && !p.ovrnInt)

/-- Only a condition that is present can be armed for clearing (R367, R374), and a high DCD holds the receiver. -/
def Acia.ok (p : Acia) : Bool := (!p.ovrnArmed || p.ovrnInt) && (!p.dcdArmed || p.dcdLatch) && p.receiverHeld

/-- The invariant of the board: canonical memory, a map as decision D1 asks, devices for its device regions, devices in
legal states, and PIAs with a low Reset pin cleared. -/
def Board.Inv (b : Board) : Prop :=
  b.mem.wf = true ∧ b.map.wf = true ∧ b.devicesExist = true ∧ b.pias.all Pia.ok = true ∧ b.acias.all Acia.ok = true ∧
    b.pias.all (Pia.heldClear b.lines.resetLow) = true

/-- The invariant of the machine. -/
def State.Inv (s : State) : Prop := s.board.Inv

end Sys2Proof.Machine
end

