-- ==== Sys2Proof/Certificates/Slice0/Obligations.lean ====
section
/-! DEFINITION. The statements for the provers. Each names in its docstring the rules of spec/ it formalises. -/

open Sys2Proof

open Sys2Proof.Machine

/-- For every instruction i (each is well formed, R104) with every value of its operand and every rest of bytes,
decode of encode i followed by the rest is i and the rest. No bit of an operand is dropped. Rests on 30_encoding.md
R90, 30_encoding.md R94, 30_encoding.md R96, 30_encoding.md R104. -/
def Obligations.DecodeOfEncode : Prop :=
  ∀ (i : Instr) (rest : List Byte), i.wf = true → decode (encode i ++ rest) = .ok (i, rest)

/-- For all bytes bs: if decode bs is the instruction i and the rest, then bs is encode i followed by that rest. So
each byte sequence has one reading and none is read as an instruction whose bytes it does not start with. Rests on
30_encoding.md R90, 30_encoding.md R104. -/
def Obligations.EncodeOfDecode : Prop :=
  ∀ (bs rest : List Byte) (i : Instr), decode bs = .ok (i, rest) → bs = encode i ++ rest

/-- For each of the 256 operation codes: the decoder has no shape for it exactly if it is one of the 59 codes that
R103 lists; the list has 59 entries without repetition. Rests on 30_encoding.md R102, 30_encoding.md R103,
30_encoding.md R104. -/
def Obligations.UnassignedCodesAreRefused : Prop :=
  (∀ op : Byte, (∀ shape, decodeOp op ≠ .ok shape) ↔ op ∈ unassignedCodes) ∧ unassignedCodes.length = 59 ∧
    unassignedCodes.Nodup

/-- Nine byte sequences, written out from the operation code map of R101, one or more of each family, decode to the
instruction they stand for: ADDA immediate, NEG extended, ROR indexed, STAB direct, CPX immediate, LDS extended, BNE,
JSR extended, TAP. Rests on 30_encoding.md R101, 95_test_vectors.md. -/
def Obligations.WrittenWordsDecode : Prop :=
  decode [0x8B, 0x34] = .ok (.addaImm 0x34, []) ∧ decode [0x70, 0x12, 0x34] = .ok (.negExt 0x1234, []) ∧
    decode [0x66, 0x05] = .ok (.rorIdx 0x05, []) ∧ decode [0xD7, 0x80] = .ok (.stabDir 0x80, []) ∧
    decode [0x8C, 0x12, 0x34] = .ok (.cpxImm 0x1234, []) ∧ decode [0xBE, 0xFF, 0x01] = .ok (.ldsExt 0xFF01, []) ∧
    decode [0x26, 0xF2] = .ok (.bne 0xF2, []) ∧ decode [0xBD, 0xC0, 0x00] = .ok (.jsrExt 0xC000, []) ∧
    decode [0x06] = .ok (.tap, [])

/-- If the MPU is at a boundary with nothing to serve (Ready) and the bytes of the instruction i stand in RAM or ROM
at pc, then step is exec of i at a state f that differs from the old state only in pc, moved past the bytes, and in
the board; memory, map and lines are as before, the board is quiet, and the trace of the step so far is one read per
byte. Rests on 30_encoding.md R92, 60_exceptions.md R315, 60_exceptions.md R333. -/
def Obligations.StepRunsTheDecodedInstruction : Prop :=
  ∀ (s : State) (i : Instr), s.Ready → s.Holds i →
    ∃ f, step s = exec i f ∧ f = { s with pc := s.pc + BitVec.ofNat 16 i.length, board := f.board } ∧
      (∀ a, f.byteAt a = s.byteAt a) ∧ f.board.map = s.board.map ∧ f.board.lines = s.board.lines ∧ f.Quiet ∧
      f.board.trace = (List.range i.length).map (fun k =>
        BusCycle.read (s.pc + BitVec.ofNat 16 k) (s.byteAt (s.pc + BitVec.ofNat 16 k)))

/-- If the MPU is at a boundary with nothing to serve and the byte at pc, in RAM or ROM, is one of the 59 unassigned
codes, then step refuses with UndefinedOpcode, that code and pc. This is the choice of decision D4. Rests on
30_encoding.md R103, 60_exceptions.md R333, 92_eei_decisions.md D4. -/
def Obligations.StepRefusesAnUnassignedCode : Prop :=
  ∀ s : State, s.Ready → s.isMemory s.pc = true → s.byteAt s.pc ∈ unassignedCodes →
    step s = .refused (.undefinedOpcode (s.byteAt s.pc) s.pc)

/-- For every state, whatever the environment does: step is no fault, and if it is a refusal, it is UndefinedOpcode
with one of the 59 unassigned codes and the old pc. Rests on 60_exceptions.md R310, 30_encoding.md R103,
92_eei_decisions.md D4. -/
def Obligations.NothingElseStopsTheMachine : Prop :=
  ∀ s : State, (∀ f, step s ≠ .fault f) ∧
    (∀ r, step s = .refused r → ∃ op, op ∈ unassignedCodes ∧ r = .undefinedOpcode op s.pc)

/-- For every instruction and every state, whatever the environment does: the machine cycles that exec adds to the
trace, together with the fetch of the bytes, are the number of R106. On a quiet board they are, in order, the reads,
writes and VMA = 0 cycles of busPattern at its addresses, with what the address bus shows in a VMA = 0 cycle where the
spec gives it: a store does not read its destination, TST does not write, CLR reads before it writes. Where the VMA =
0 cycles fall, and what they show, in the forms whose row of Table 8 the spec does not transcribe is log 20 (DEDUCED).
Rests on 20_memory.md R61, 20_memory.md R63, 20_memory.md R64, 20_memory.md R65, 30_encoding.md R106,
70_reset_and_hazards.md R411, 70_reset_and_hazards.md R413, 95_test_vectors.md section 1.6. -/
def Obligations.BusCyclesOfEveryInstruction : Prop :=
  ∀ (i : Instr) (s t : State), exec i s = .next t →
    t.board.trace.length + i.length = s.board.trace.length + i.cycles ∧
    (s.Quiet → t.board.trace.map BusCycle.use = s.board.trace.map BusCycle.use ++ busPattern i s)

/-- The direct address is the zero-extended byte, the indexed address X plus the unsigned byte modulo 65536, the
extended address the word. An immediate operand is itself and makes no access. On a quiet board an operand in RAM or
ROM reads as the byte there, a 16-bit operand as the byte at the address and the byte at the address + 1, high-order
first. Rests on 30_encoding.md R94, 30_encoding.md R95, 30_encoding.md R96, 30_encoding.md R98, 30_encoding.md R107,
20_memory.md R54, 20_memory.md R60. -/
def Obligations.OperandsAreAddressedAndRead : Prop :=
  ∀ (s : State) (m d o : Byte) (w : Word),
    ((MemOperand.dir d).ea s).toNat = d.toNat ∧
    ((MemOperand.idx o).ea s).toNat = (s.x.toNat + o.toNat) % 65536 ∧
    (MemOperand.ext w).ea s = w ∧
    (Operand8.imm m).read s = (m, s) ∧ (Operand16.imm w).read s = (w, s) ∧
    ∀ e : MemOperand, s.Quiet → s.isMemory (e.ea s) = true →
      s.loaded e = s.byteAt (e.ea s) ∧ (s.isMemory (e.ea s + 1) = true → s.loaded16 e = s.wordAt (e.ea s))

/-- On a quiet board: a read of RAM or ROM returns the byte there; a read where nothing is selected returns the next
free value and uses it up; a write to RAM stores the byte and to anything else changes no byte of memory (decision
D5); an access to an address of a PIA whose Reset pin is not low returns and leaves what its own read and write rules
say, and one whose Reset pin is low stays reset; an access to an ACIA address returns and leaves what the rules of
that ACIA say. The register is the one at the offset of the address in its region counted on from the first register
that the map gives the region (log 49, DESIGN CHOICE). An address of a mirror names the byte it repeats, so both read
alike; every other address is its own home. That the PIA addressed sees the E pulse of the same machine cycle, as a
selected one, is log 23 (DEDUCED); mirrors and homes are the model's way to say a chip select that answers at several
ranges, log 41 (DESIGN CHOICE), which R383 does not state; a Reset pin that is not on the system's reset is log 48
(DESIGN CHOICE). That an access to a PIA whose Reset pin is low leaves all of it reset is the model's choice, log 39
(DEDUCED), with the stored level of C2 that of log 22 (DESIGN CHOICE): R343 only zeroes the registers and asks that
Reset be high before the PIA is addressed. Rests on 20_memory.md R52, 20_memory.md R66, 20_memory.md R68,
60_exceptions.md R340, 60_exceptions.md R360, 60_exceptions.md R343, 60_exceptions.md R383, 92_eei_decisions.md D5. -/
def Obligations.BusAccessByRegion : Prop :=
  ∀ (b : Board) (a : Addr) (v : Byte), b.Quiet →
    (b.map.isMemory a.toNat = true → (b.busRead a).1 = b.byteAt a.toNat ∧ (b.busRead a).2.acias = b.acias ∧
      (b.busRead a).2.nmiPending = b.nmiPending ∧ (b.busRead a).2.free = b.free) ∧
    (b.map.regionAt a.toNat = none →
      (b.busRead a).1 = Config.freeByte b.free ∧ (b.busRead a).2.free = b.free + 1 ∧ (b.busWrite a v).mem = b.mem) ∧
    (b.map.isRam a.toNat = true → (b.busWrite a v).mem = b.mem.write (b.map.home a.toNat) v) ∧
    (b.map.isRam a.toNat = false → (b.busWrite a v).mem = b.mem) ∧
    (∀ n first off p, b.map.regionAt a.toNat = some (.pia n first, off) → b.pias[n]? = some p → p.held false = false →
      (b.busRead a).1 = ((p.ePulse true).read (first + off)).1 ∧
        (b.busRead a).2.pias[n]? = some ((p.ePulse true).read (first + off)).2 ∧
        (b.busWrite a v).pias[n]? = some ((p.ePulse true).write (Config.freeByte b.free) (first + off) v)) ∧
    (∀ n first off p, b.map.regionAt a.toNat = some (.pia n first, off) → b.pias[n]? = some p → p.held false = true →
      (b.busRead a).2.pias[n]? = some p.reset ∧ (b.busWrite a v).pias[n]? = some p.reset) ∧
    (∀ n first off p, b.map.regionAt a.toNat = some (.acia n first, off) → b.acias[n]? = some p →
      (b.busRead a).1 = (p.read (Config.freeByte b.free) (first + off)).1 ∧
        (b.busRead a).2.acias[n]? = some (p.read (Config.freeByte b.free) (first + off)).2 ∧
        (b.busWrite a v).acias[n]? = some (p.write (first + off) v)) ∧
    (∀ c : Addr, b.map.home c.toNat = b.map.home a.toNat → b.map.isMemory a.toNat = true →
      (b.busRead c).1 = (b.busRead a).1) ∧
    (∀ target off, b.map.findAt a.toNat = some (.mirror target, off) → b.map.home a.toNat = (target + off) % 65536) ∧
    ((∀ target off, b.map.findAt a.toNat ≠ some (.mirror target, off)) → b.map.home a.toNat = a.toNat)

/-- In canonical memory, after a store a read of that address gives the byte stored and a read of any other address
what it gave before; the memory is again canonical. Two canonical memories that read alike at every address are equal.
Rests on 20_memory.md R50, 60_exceptions.md R380. -/
def Obligations.StoredByteIsReadBack : Prop :=
  ∀ (m : Memory) (a : Addr) (v : Byte), m.wf = true →
    (∀ c : Nat, (m.write a.toNat v).read c = if c = a.toNat then v else m.read c) ∧ (m.write a.toNat v).wf = true ∧
    (∀ m' : Memory, m'.wf = true → (∀ c, m'.read c = m.read c) → m' = m)

/-- For every state and operand the eight forms of ADD, the eight of ADC and ABA complete. The accumulator gets the
sum modulo 256, for ADC with the old C as carry-in; H, N, Z, V, C are as AddFlags of R131 says, V also in its reading
as the signed sum leaving -128 to 127; I is unchanged. Every other register is unchanged and, on a quiet board, every
byte of memory. Rests on 40_accumulator_memory_arithmetic.md R134, 40_accumulator_memory_arithmetic.md R135,
40_accumulator_memory_arithmetic.md R136. -/
def Obligations.AdditionForms : Prop :=
  ∀ (s : State) (m d o : Byte) (w : Word),
    BinaryForms IsAdd s m d o w
      (exec (.addaImm m) s) (exec (.addaDir d) s) (exec (.addaIdx o) s) (exec (.addaExt w) s)
      (exec (.addbImm m) s) (exec (.addbDir d) s) (exec (.addbIdx o) s) (exec (.addbExt w) s) ∧
    WritesAcc .a (IsAdd s.a s.b s.cc) s (exec .aba s) ∧
    BinaryForms IsAddCarry s m d o w
      (exec (.adcaImm m) s) (exec (.adcaDir d) s) (exec (.adcaIdx o) s) (exec (.adcaExt w) s)
      (exec (.adcbImm m) s) (exec (.adcbDir d) s) (exec (.adcbIdx o) s) (exec (.adcbExt w) s)

/-- For every state and operand the eight forms of SUB, the eight of SBC and SBA complete. The accumulator gets the
difference modulo 256, for SBC with the old C as borrow-in; N, Z, V and the borrow C are as SubFlags of R132 says, V
also as the signed difference leaving -128 to 127; H and I are unchanged. Every other register is unchanged and, on a
quiet board, every byte of memory. Rests on 40_accumulator_memory_arithmetic.md R137,
40_accumulator_memory_arithmetic.md R138, 40_accumulator_memory_arithmetic.md R139. -/
def Obligations.SubtractionForms : Prop :=
  ∀ (s : State) (m d o : Byte) (w : Word),
    BinaryForms IsSub s m d o w
      (exec (.subaImm m) s) (exec (.subaDir d) s) (exec (.subaIdx o) s) (exec (.subaExt w) s)
      (exec (.subbImm m) s) (exec (.subbDir d) s) (exec (.subbIdx o) s) (exec (.subbExt w) s) ∧
    WritesAcc .a (IsSub s.a s.b s.cc) s (exec .sba s) ∧
    BinaryForms IsSubBorrow s m d o w
      (exec (.sbcaImm m) s) (exec (.sbcaDir d) s) (exec (.sbcaIdx o) s) (exec (.sbcaExt w) s)
      (exec (.sbcbImm m) s) (exec (.sbcbDir d) s) (exec (.sbcbIdx o) s) (exec (.sbcbExt w) s)

/-- For every state and operand the eight forms of CMP and CBA complete, writing only N, Z, V, C as the subtraction
would. Z = 1 iff equal, C = 1 iff lower unsigned, N xor V = 1 iff lower signed. Every other register is unchanged and,
on a quiet board, every byte of memory. Rests on 40_accumulator_memory_arithmetic.md R140,
40_accumulator_memory_arithmetic.md R141. -/
def Obligations.CompareForms : Prop :=
  ∀ (s : State) (m d o : Byte) (w : Word),
    FlagForms IsCompared s m d o w
      (exec (.cmpaImm m) s) (exec (.cmpaDir d) s) (exec (.cmpaIdx o) s) (exec (.cmpaExt w) s)
      (exec (.cmpbImm m) s) (exec (.cmpbDir d) s) (exec (.cmpbIdx o) s) (exec (.cmpbExt w) s) ∧
    WritesFlags (IsCompared s.a s.b s.cc) s (exec .cba s)

/-- For every state and operand the eight forms of AND and of BIT complete. AND writes the bitwise AND to the
accumulator, BIT writes none. N and Z describe the result, V is 0, C, H and I are unchanged. Every other register is
unchanged and, on a quiet board, every byte of memory. Rests on 41_accumulator_memory_logic_shift_move.md R172,
41_accumulator_memory_logic_shift_move.md R173. -/
def Obligations.AndAndBitForms : Prop :=
  ∀ (s : State) (m d o : Byte) (w : Word),
    BinaryForms IsAnd s m d o w
      (exec (.andaImm m) s) (exec (.andaDir d) s) (exec (.andaIdx o) s) (exec (.andaExt w) s)
      (exec (.andbImm m) s) (exec (.andbDir d) s) (exec (.andbIdx o) s) (exec (.andbExt w) s) ∧
    FlagForms IsBitTested s m d o w
      (exec (.bitaImm m) s) (exec (.bitaDir d) s) (exec (.bitaIdx o) s) (exec (.bitaExt w) s)
      (exec (.bitbImm m) s) (exec (.bitbDir d) s) (exec (.bitbIdx o) s) (exec (.bitbExt w) s)

/-- For every state and operand the eight forms of ORA and of EOR complete, writing the bitwise result to the
accumulator. N and Z describe it, V is 0, C, H and I are unchanged. Every other register is unchanged and, on a quiet
board, every byte of memory. Rests on 41_accumulator_memory_logic_shift_move.md R174,
41_accumulator_memory_logic_shift_move.md R175. -/
def Obligations.OrForms : Prop :=
  ∀ (s : State) (m d o : Byte) (w : Word),
    BinaryForms IsOr s m d o w
      (exec (.oraaImm m) s) (exec (.oraaDir d) s) (exec (.oraaIdx o) s) (exec (.oraaExt w) s)
      (exec (.orabImm m) s) (exec (.orabDir d) s) (exec (.orabIdx o) s) (exec (.orabExt w) s) ∧
    BinaryForms IsExclusiveOr s m d o w
      (exec (.eoraImm m) s) (exec (.eoraDir d) s) (exec (.eoraIdx o) s) (exec (.eoraExt w) s)
      (exec (.eorbImm m) s) (exec (.eorbDir d) s) (exec (.eorbIdx o) s) (exec (.eorbExt w) s)

/-- For every state and operand the eight forms of LDA, TAB and TBA complete, writing the operand, A or B to the
accumulator. N and Z describe the byte, V is 0, C, H and I are unchanged. Every other register is unchanged and, on a
quiet board, every byte of memory. Rests on 41_accumulator_memory_logic_shift_move.md R182,
41_accumulator_memory_logic_shift_move.md R186, 41_accumulator_memory_logic_shift_move.md R187. -/
def Obligations.LoadForms : Prop :=
  ∀ (s : State) (m d o : Byte) (w : Word),
    BinaryForms IsLoad s m d o w
      (exec (.ldaaImm m) s) (exec (.ldaaDir d) s) (exec (.ldaaIdx o) s) (exec (.ldaaExt w) s)
      (exec (.ldabImm m) s) (exec (.ldabDir d) s) (exec (.ldabIdx o) s) (exec (.ldabExt w) s) ∧
    WritesAcc .b (IsLoad s.b s.a s.cc) s (exec .tab s) ∧ WritesAcc .a (IsLoad s.a s.b s.cc) s (exec .tba s)

/-- For every state and operand the six forms of STA complete. On a quiet board exactly the byte at the effective
address changes, to the accumulator, if it is RAM; N and Z describe the byte, V is 0; no register changes. Rests on
41_accumulator_memory_logic_shift_move.md R170, 41_accumulator_memory_logic_shift_move.md R183. -/
def Obligations.StoreForms : Prop :=
  ∀ (s : State) (d o : Byte) (w : Word),
    StoresByte (.dir d) s.a s (exec (.staaDir d) s) ∧
    StoresByte (.idx o) s.a s (exec (.staaIdx o) s) ∧
    StoresByte (.ext w) s.a s (exec (.staaExt w) s) ∧
    StoresByte (.dir d) s.b s (exec (.stabDir d) s) ∧
    StoresByte (.idx o) s.b s (exec (.stabIdx o) s) ∧
    StoresByte (.ext w) s.b s (exec (.stabExt w) s)

/-- For every state and operand the four forms of NEG and of COM complete. NEG gives 0 minus the byte modulo 256 with
V = 1 iff the result is 80 and C = 1 iff it is not 00, the flags of the subtraction from 0. COM gives FF minus the
byte with N and Z from it, V = 0 and C = 1. H and I are unchanged. The accumulator forms write that accumulator alone;
the memory forms, on a quiet board, change exactly the byte at the effective address, if it is RAM, and no register.
Rests on 40_accumulator_memory_arithmetic.md R142, 41_accumulator_memory_logic_shift_move.md R176. -/
def Obligations.NegateAndComplementForms : Prop :=
  ∀ (s : State) (o : Byte) (w : Word),
    UnaryForms IsNegated s o w (exec .nega s) (exec .negb s) (exec (.negIdx o) s) (exec (.negExt w) s) ∧
    UnaryForms IsComplemented s o w (exec .coma s) (exec .comb s) (exec (.comIdx o) s) (exec (.comExt w) s)

/-- For every state and operand the four forms of INC and of DEC complete, giving the byte plus or minus 1 modulo 256;
V = 1 iff the operand was 7F (INC) or 80 (DEC); C, H and I are unchanged. The accumulator forms write that accumulator
alone; the memory forms, on a quiet board, change exactly the byte at the effective address, if it is RAM, and no
register. Rests on 40_accumulator_memory_arithmetic.md R144, 40_accumulator_memory_arithmetic.md R145. -/
def Obligations.IncrementAndDecrementForms : Prop :=
  ∀ (s : State) (o : Byte) (w : Word),
    UnaryForms IsIncremented s o w (exec .inca s) (exec .incb s) (exec (.incIdx o) s) (exec (.incExt w) s) ∧
    UnaryForms IsDecremented s o w (exec .deca s) (exec .decb s) (exec (.decIdx o) s) (exec (.decExt w) s)

/-- For every state and operand the four forms of CLR and TST complete. CLR gives 00 with N, V, C = 0 and Z = 1. TST
sets N and Z from the byte, V = C = 0, and writes neither register nor memory. The accumulator forms write that
accumulator alone; the memory forms, on a quiet board, change exactly the byte at the effective address, if it is RAM,
and no register. Rests on 40_accumulator_memory_arithmetic.md R133, 40_accumulator_memory_arithmetic.md R146,
40_accumulator_memory_arithmetic.md R147. -/
def Obligations.ClearAndTestForms : Prop :=
  ∀ (s : State) (o : Byte) (w : Word),
    UnaryForms IsCleared s o w (exec .clra s) (exec .clrb s) (exec (.clrIdx o) s) (exec (.clrExt w) s) ∧
    WritesFlags (IsTested s.a s.cc) s (exec .tsta s) ∧ WritesFlags (IsTested s.b s.cc) s (exec .tstb s) ∧
    WritesFlags (IsTested (s.loaded (.idx o)) s.cc) s (exec (.tstIdx o) s) ∧
    WritesFlags (IsTested (s.loaded (.ext w)) s.cc) s (exec (.tstExt w) s)

/-- For every state and operand the four forms of ROL and of ROR complete. Each bit moves one place, the old C enters
bit 0 (ROL) or bit 7 (ROR), the bit at the other end becomes C, V is the new N xor the new C. The accumulator forms
write that accumulator alone; the memory forms, on a quiet board, change exactly the byte at the effective address, if
it is RAM, and no register. Rests on 41_accumulator_memory_logic_shift_move.md R171,
41_accumulator_memory_logic_shift_move.md R177, 41_accumulator_memory_logic_shift_move.md R178. -/
def Obligations.RotateForms : Prop :=
  ∀ (s : State) (o : Byte) (w : Word),
    UnaryForms IsRotatedLeft s o w (exec .rola s) (exec .rolb s) (exec (.rolIdx o) s) (exec (.rolExt w) s) ∧
    UnaryForms IsRotatedRight s o w (exec .rora s) (exec .rorb s) (exec (.rorIdx o) s) (exec (.rorExt w) s)

/-- For every state and operand the four forms of ASL, ASR and LSR complete. ASL moves each bit up with 0 entering,
ASR keeps bit 7 and gives the signed half rounded down, LSR the unsigned half with N = 0; C is the bit shifted out, V
is N xor C. The accumulator forms write that accumulator alone; the memory forms, on a quiet board, change exactly the
byte at the effective address, if it is RAM, and no register. Rests on 41_accumulator_memory_logic_shift_move.md R171,
41_accumulator_memory_logic_shift_move.md R179, 41_accumulator_memory_logic_shift_move.md R180,
41_accumulator_memory_logic_shift_move.md R181. -/
def Obligations.ShiftForms : Prop :=
  ∀ (s : State) (o : Byte) (w : Word),
    UnaryForms IsShiftedLeft s o w (exec .asla s) (exec .aslb s) (exec (.aslIdx o) s) (exec (.aslExt w) s) ∧
    UnaryForms IsHalvedSigned s o w (exec .asra s) (exec .asrb s) (exec (.asrIdx o) s) (exec (.asrExt w) s) ∧
    UnaryForms IsHalved s o w (exec .lsra s) (exec .lsrb s) (exec (.lsrIdx o) s) (exec (.lsrExt w) s)

/-- For every state DAA completes. A gets A plus 06 if the low digit is above 9 or H is set, plus 60 if the high digit
is above 9 or C is set or the high digit is 9 and the low digit above 9; N and Z describe it; C becomes 1 if the sum
exceeds FF and is never cleared; H and I are unchanged; nothing is said of V (U4). Every other register is unchanged
and, on a quiet board, every byte of memory. Rests on 40_accumulator_memory_arithmetic.md R143. -/
def Obligations.DecimalAdjust : Prop :=
  ∀ s : State, WritesAcc .a (fun res f' =>
      let low := if 9 < s.a.toNat % 16 ∨ s.cc.h = true then 6 else 0
      let high := if 9 < s.a.toNat / 16 ∨ s.cc.c = true ∨ (8 < s.a.toNat / 16 ∧ 9 < s.a.toNat % 16) then 96 else 0
      res.toNat = (s.a.toNat + low + high) % 256 ∧ f'.n = res.getLsbD 7 ∧ (f'.z = true ↔ res = 0) ∧
        (f'.c = true ↔ s.cc.c = true ∨ 255 < s.a.toNat + low + high) ∧ f'.h = s.cc.h ∧ f'.i = s.cc.i)
    s (exec .daa s)

/-- If A and the operand are packed decimal bytes x and y, then ADCA immediate followed by DAA leaves in A the packed
decimal digits of (x + y + old C) mod 100 and in C whether the sum is 100 or more; ADDA immediate followed by DAA the
same without the old C. DAA runs at any state whose A and flags are those the addition left. Rests on
40_accumulator_memory_arithmetic.md R131, 40_accumulator_memory_arithmetic.md R135,
40_accumulator_memory_arithmetic.md R136, 40_accumulator_memory_arithmetic.md R143. -/
def Obligations.DecimalAddition : Prop :=
  ∀ (s t u v w : State) (m : Byte),
    s.a.toNat % 16 ≤ 9 → s.a.toNat / 16 ≤ 9 → m.toNat % 16 ≤ 9 → m.toNat / 16 ≤ 9 →
    let dec := fun b : Byte => b.toNat / 16 * 10 + b.toNat % 16
    (exec (.adcaImm m) s = .next t → u.a = t.a → u.cc = t.cc → exec .daa u = .next v →
      v.a.toNat % 16 ≤ 9 ∧ v.a.toNat / 16 ≤ 9 ∧ dec v.a = (dec s.a + dec m + bitNat s.cc.c) % 100 ∧
        (v.cc.c = true ↔ 100 ≤ dec s.a + dec m + bitNat s.cc.c)) ∧
    (exec (.addaImm m) s = .next t → u.a = t.a → u.cc = t.cc → exec .daa u = .next w →
      w.a.toNat % 16 ≤ 9 ∧ w.a.toNat / 16 ≤ 9 ∧ dec w.a = (dec s.a + dec m) % 100 ∧
        (w.cc.c = true ↔ 100 ≤ dec s.a + dec m))

/-- For every state the four instructions complete. PSH lowers SP by 1 and, on a quiet board, changes exactly the byte
at the old SP, to the accumulator, if it is RAM. PUL raises SP by 1 and loads the byte read there, which on a quiet
board and in RAM or ROM is the byte that stands there, and changes no byte of memory. No flag and no other register
changes. Rests on 41_accumulator_memory_logic_shift_move.md R184, 41_accumulator_memory_logic_shift_move.md R185. -/
def Obligations.PushAndPullForms : Prop :=
  ∀ s : State,
    (∃ t, exec .psha s = .next t ∧ t = { s with sp := s.sp - 1, board := t.board } ∧ ByteStored s.sp s.a s t) ∧
    (∃ t, exec .pshb s = .next t ∧ t = { s with sp := s.sp - 1, board := t.board } ∧ ByteStored s.sp s.b s t) ∧
    (∃ t, exec .pula s = .next t ∧ t = { s with a := t.a, sp := s.sp + 1, board := t.board } ∧ MemoryKept s t ∧
      (s.Quiet → s.isMemory (s.sp + 1) = true → t.a = s.byteAt (s.sp + 1))) ∧
    (∃ t, exec .pulb s = .next t ∧ t = { s with b := t.b, sp := s.sp + 1, board := t.board } ∧ MemoryKept s t ∧
      (s.Quiet → s.isMemory (s.sp + 1) = true → t.b = s.byteAt (s.sp + 1)))

/-- For every state and operand the four forms of CPX complete, writing only N, Z and V: N and V as the subtraction of
the high-order bytes gives them, without a borrow (the choice of decision D16), Z = 1 iff X equals the word; C, H, I
and every register are unchanged, and on a quiet board every byte of memory. Rests on 42_index_stack.md R211,
92_eei_decisions.md D16. -/
def Obligations.CompareIndexForms : Prop :=
  ∀ (s : State) (d o : Byte) (w : Word),
    WritesFlags (IsCompared16 s.x w s.cc) s (exec (.cpxImm w) s) ∧
    WritesFlags (IsCompared16 s.x (s.loaded16 (.dir d)) s.cc) s (exec (.cpxDir d) s) ∧
    WritesFlags (IsCompared16 s.x (s.loaded16 (.idx o)) s.cc) s (exec (.cpxIdx o) s) ∧
    WritesFlags (IsCompared16 s.x (s.loaded16 (.ext w)) s.cc) s (exec (.cpxExt w) s)

/-- For every state and operand the four forms of LDX and of LDS complete, writing the operand word to X or SP; N is
bit 15, Z = 1 iff the word is 0, V = 0, C, H and I are unchanged. The indexed forms address with the old X. Every
other register is unchanged and, on a quiet board, every byte of memory. Rests on 42_index_stack.md R216,
42_index_stack.md R217. -/
def Obligations.LoadWordForms : Prop :=
  ∀ (s : State) (d o : Byte) (w : Word),
    (∀ (v : Word) (out : Result),
      (v, out) ∈ [(w, exec (.ldxImm w) s), (s.loaded16 (.dir d), exec (.ldxDir d) s),
          (s.loaded16 (.idx o), exec (.ldxIdx o) s), (s.loaded16 (.ext w), exec (.ldxExt w) s)] →
        ∃ t, out = .next t ∧ IsMoved16 v s.cc t.cc ∧ t = { s with x := v, cc := t.cc, board := t.board } ∧ MemoryKept s t) ∧
    (∀ (v : Word) (out : Result),
      (v, out) ∈ [(w, exec (.ldsImm w) s), (s.loaded16 (.dir d), exec (.ldsDir d) s),
          (s.loaded16 (.idx o), exec (.ldsIdx o) s), (s.loaded16 (.ext w), exec (.ldsExt w) s)] →
        ∃ t, out = .next t ∧ IsMoved16 v s.cc t.cc ∧ t = { s with sp := v, cc := t.cc, board := t.board } ∧ MemoryKept s t)

/-- For every state and operand the six forms of STX and STS complete. On a quiet board exactly two bytes change, as
far as they are RAM: the high byte at the effective address, the low byte at the next; N, Z, V as R210 says; no
register changes. Rests on 42_index_stack.md R210, 42_index_stack.md R218, 42_index_stack.md R219. -/
def Obligations.StoreWordForms : Prop :=
  ∀ (s : State) (d o : Byte) (w : Word),
    StoresWord (.dir d) s.x s (exec (.stxDir d) s) ∧
    StoresWord (.idx o) s.x s (exec (.stxIdx o) s) ∧
    StoresWord (.ext w) s.x s (exec (.stxExt w) s) ∧
    StoresWord (.dir d) s.sp s (exec (.stsDir d) s) ∧
    StoresWord (.idx o) s.sp s (exec (.stsIdx o) s) ∧
    StoresWord (.ext w) s.sp s (exec (.stsExt w) s)

/-- For every state the six instructions complete: X or SP changes by one modulo 65536, TXS gives SP = X - 1, TSX
gives X = SP + 1; DEX and INX set Z from the new X and no other flag; the other four change no flag. Every other
register is unchanged and, on a quiet board, every byte of memory. Rests on 42_index_stack.md R212, 42_index_stack.md
R213, 42_index_stack.md R214, 42_index_stack.md R215, 42_index_stack.md R220, 42_index_stack.md R221. -/
def Obligations.IndexAndStackArithmetic : Prop :=
  ∀ s : State,
    (∃ t, exec .dex s = .next t ∧ (t.x.toNat : Int) = ((s.x.toNat : Int) - 1) % 65536 ∧ (t.cc.z = true ↔ t.x = 0) ∧
      t = { s with x := t.x, cc := { s.cc with z := t.cc.z }, board := t.board } ∧ MemoryKept s t) ∧
    (∃ t, exec .inx s = .next t ∧ t.x.toNat = (s.x.toNat + 1) % 65536 ∧ (t.cc.z = true ↔ t.x = 0) ∧
      t = { s with x := t.x, cc := { s.cc with z := t.cc.z }, board := t.board } ∧ MemoryKept s t) ∧
    Becomes (fun u => { u with sp := u.sp - 1 }) s (exec .des s) ∧
    Becomes (fun u => { u with sp := u.sp + 1 }) s (exec .ins s) ∧
    Becomes (fun u => { u with sp := u.x - 1 }) s (exec .txs s) ∧
    Becomes (fun u => { u with x := u.sp + 1 }) s (exec .tsx s)

/-- For every state and offset BRA and the fourteen conditional branches complete. pc (already past the two bytes)
moves by the signed offset modulo 65536 if the test of Table 5 holds and stays otherwise; no flag and no other
register changes, and on a quiet board no byte of memory. Rests on 30_encoding.md R99, 43_jump_branch.md R240,
43_jump_branch.md section 1, 90_conflicts.md C1, 90_conflicts.md C2, 90_conflicts.md C11. -/
def Obligations.BranchForms : Prop :=
  ∀ (s : State) (r : Byte),
    Branches (true) r s (exec (.bra r) s) ∧
    Branches (!s.cc.c) r s (exec (.bcc r) s) ∧
    Branches (s.cc.c) r s (exec (.bcs r) s) ∧
    Branches (s.cc.z) r s (exec (.beq r) s) ∧
    Branches (!(s.cc.n ^^ s.cc.v)) r s (exec (.bge r) s) ∧
    Branches (!(s.cc.z || (s.cc.n ^^ s.cc.v))) r s (exec (.bgt r) s) ∧
    Branches (!(s.cc.c || s.cc.z)) r s (exec (.bhi r) s) ∧
    Branches (s.cc.z || (s.cc.n ^^ s.cc.v)) r s (exec (.ble r) s) ∧
    Branches (s.cc.c || s.cc.z) r s (exec (.bls r) s) ∧
    Branches (s.cc.n ^^ s.cc.v) r s (exec (.blt r) s) ∧
    Branches (s.cc.n) r s (exec (.bmi r) s) ∧
    Branches (!s.cc.z) r s (exec (.bne r) s) ∧
    Branches (!s.cc.v) r s (exec (.bvc r) s) ∧
    Branches (s.cc.v) r s (exec (.bvs r) s) ∧
    Branches (!s.cc.n) r s (exec (.bpl r) s)

/-- For every state and operand BSR, JSR indexed and JSR extended complete: SP is lowered by 2, pc becomes the target
(pc plus the signed offset; old X plus the byte; the word), and on a quiet board exactly the bytes at SP (low byte of
pc) and SP - 1 (high byte) change, as far as they are RAM; no flag and no other register changes. Rests on
30_encoding.md R99, 43_jump_branch.md R256, 43_jump_branch.md R258, 20_memory.md R57. -/
def Obligations.SubroutineCalls : Prop :=
  ∀ (s : State) (r o : Byte) (w : Word),
    Calls (s.pc + r.signExtend 16) s (exec (.bsr r) s) ∧ Calls (s.x + o.zeroExtend 16) s (exec (.jsrIdx o) s) ∧
    Calls w s (exec (.jsrExt w) s)

/-- For every state and operand JMP indexed and extended complete with pc the effective address itself, and NOP
completes; nothing else changes: no flag, no other register, and on a quiet board no byte of memory. Rests on
43_jump_branch.md R257, 43_jump_branch.md R259, 20_memory.md R60. -/
def Obligations.JumpsAndNop : Prop :=
  ∀ (s : State) (o : Byte) (w : Word),
    (∃ t, exec (.jmpIdx o) s = .next t ∧ t.pc.toNat = (s.x.toNat + o.toNat) % 65536 ∧
      t = { s with pc := t.pc, board := t.board } ∧ MemoryKept s t) ∧
    Becomes (fun u => { u with pc := w }) s (exec (.jmpExt w) s) ∧ Becomes id s (exec .nop s)

/-- For every state RTS completes: SP is raised by 2; on a quiet board with RAM or ROM at SP + 1 and SP + 2 pc is the
word there, high byte first; no flag and no other register changes, and on a quiet board no byte of memory. Rests on
20_memory.md R57, 43_jump_branch.md R261. -/
def Obligations.ReturnFromSubroutine : Prop :=
  ∀ s : State, ∃ t, exec .rts s = .next t ∧ t = { s with pc := t.pc, sp := s.sp + 2, board := t.board } ∧
    MemoryKept s t ∧
    (s.Quiet → s.isMemory (s.sp + 1) = true → s.isMemory (s.sp + 2) = true → t.pc = s.wordAt (s.sp + 1))

/-- For every state RTI completes: SP is raised by 7; on a quiet board with RAM or ROM at SP + 1 to SP + 7 the flags
are bits 5 to 0 of the first byte, then B, A, X and pc, high bytes first; nothing else changes, and on a quiet board
no byte of memory. Rests on 10_state.md R27, 43_jump_branch.md R260, 60_exceptions.md R321. -/
def Obligations.ReturnFromInterrupt : Prop :=
  ∀ s : State, ∃ t, exec .rti s = .next t ∧
    t = { s with a := t.a, b := t.b, x := t.x, pc := t.pc, cc := t.cc, sp := s.sp + 7, board := t.board } ∧
    MemoryKept s t ∧
    (s.Quiet → s.FrameReadable →
      (t.cc.h = (s.byteAt (s.sp + 1)).getLsbD 5 ∧ t.cc.i = (s.byteAt (s.sp + 1)).getLsbD 4 ∧
        t.cc.n = (s.byteAt (s.sp + 1)).getLsbD 3 ∧ t.cc.z = (s.byteAt (s.sp + 1)).getLsbD 2 ∧
        t.cc.v = (s.byteAt (s.sp + 1)).getLsbD 1 ∧ t.cc.c = (s.byteAt (s.sp + 1)).getLsbD 0) ∧
      t.b = s.byteAt (s.sp + 2) ∧ t.a = s.byteAt (s.sp + 3) ∧ t.x = s.wordAt (s.sp + 4) ∧ t.pc = s.wordAt (s.sp + 6))

/-- For every state SWI completes, whatever I is: SP is lowered by 7, I is set, the other flags, A, B and X are
unchanged; on a quiet board exactly the seven bytes of the frame of R317 change, as far as they are RAM, and pc is the
word then standing at FFFA if both bytes are RAM or ROM. Rests on 43_jump_branch.md R262, 60_exceptions.md R316,
60_exceptions.md R317, 60_exceptions.md R318. -/
def Obligations.SoftwareInterrupt : Prop :=
  ∀ s : State, ∃ t, exec .swi s = .next t ∧
    t = { s with sp := s.sp - 7, cc := { s.cc with i := true }, pc := t.pc, board := t.board } ∧ FrameStored s t ∧
    (s.Quiet → s.VectorReadable 0xFFFA → t.pc = t.wordAt 0xFFFA)

/-- For every state WAI completes: SP is lowered by 7 and the run state becomes WAITING; no flag, no other register
changes; on a quiet board exactly the seven bytes of the frame change, as far as they are RAM. Rests on
43_jump_branch.md R263, 60_exceptions.md R317, 60_exceptions.md R323. -/
def Obligations.WaitForInterrupt : Prop :=
  ∀ s : State, ∃ t, exec .wai s = .next t ∧ t = { s with sp := s.sp - 7, run := .waiting, board := t.board } ∧
    FrameStored s t

/-- For every state the six instructions complete, setting or clearing exactly C, I or V; no other flag, no register,
and on a quiet board no byte of memory changes. At the boundary right after CLI an IRQ that is present is asked for,
right after SEI it is not; that the change counts at this boundary is decision D7 (log 17). Rests on
44_condition_code.md R290, 44_condition_code.md R291, 44_condition_code.md R292, 44_condition_code.md R293,
44_condition_code.md R294, 44_condition_code.md R295, 92_eei_decisions.md D7. -/
def Obligations.ConditionCodeBits : Prop :=
  ∀ s : State,
    Becomes (fun u => { u with cc := { u.cc with c := false } }) s (exec .clc s) ∧
    Becomes (fun u => { u with cc := { u.cc with i := false } }) s (exec .cli s) ∧
    Becomes (fun u => { u with cc := { u.cc with v := false } }) s (exec .clv s) ∧
    Becomes (fun u => { u with cc := { u.cc with c := true } }) s (exec .sec s) ∧
    Becomes (fun u => { u with cc := { u.cc with i := true } }) s (exec .sei s) ∧
    Becomes (fun u => { u with cc := { u.cc with v := true } }) s (exec .sev s) ∧
    (∀ t, exec .cli s = .next t → t.irqAsked = t.board.irqLow) ∧ (∀ t, exec .sei s = .next t → t.irqAsked = false)

/-- For every state TAP loads H I N Z V C from bits 5 to 0 of A and TPA puts them into A with bits 7 and 6 ones;
nothing else changes. TPA then TAP changes nothing but A, and TAP then TPA gives A or C0. Rests on 10_state.md R27,
44_condition_code.md R296, 44_condition_code.md R297, 44_condition_code.md R298. -/
def Obligations.ConditionCodeTransfers : Prop :=
  (∀ s : State,
      Becomes (fun u => { u with cc :=
        { h := u.a.getLsbD 5, i := u.a.getLsbD 4, n := u.a.getLsbD 3, z := u.a.getLsbD 2, v := u.a.getLsbD 1,
          c := u.a.getLsbD 0 } }) s (exec .tap s) ∧
      WritesAcc .a (fun res f' => f' = s.cc ∧ res.getLsbD 7 = true ∧ res.getLsbD 6 = true ∧ res.getLsbD 5 = s.cc.h ∧
        res.getLsbD 4 = s.cc.i ∧ res.getLsbD 3 = s.cc.n ∧ res.getLsbD 2 = s.cc.z ∧ res.getLsbD 1 = s.cc.v ∧
        res.getLsbD 0 = s.cc.c) s (exec .tpa s)) ∧
    (∀ s t u : State, exec .tpa s = .next t → exec .tap t = .next u → u = { s with a := t.a, board := u.board }) ∧
    (∀ s t u : State, exec .tap s = .next t → exec .tpa t = .next u → u.a = s.a ||| 0xC0)

/-- For every instruction and every state, whatever the environment does: if exec gives a next state, I is unchanged
unless the instruction is CLI, SEI, TAP, RTI or SWI, and H is unchanged unless it is ABA, ADC, ADD, TAP or RTI. X is
unchanged unless it is LDX, TSX, DEX, INX or RTI, and SP unless it is LDS, TXS, DES, INS or one that pushes or pulls.
Rests on 10_state.md R22, 10_state.md R25, 10_state.md R28, 10_state.md R29, 10_state.md R34. -/
def Obligations.WritersOfFlagsAndPointers : Prop :=
  ∀ (i : Instr) (s t : State), exec i s = .next t →
    (writesI i = false → t.cc.i = s.cc.i) ∧ (writesH i = false → t.cc.h = s.cc.h) ∧
    (writesX i = false → t.x = s.x) ∧ (writesSp i = false → t.sp = s.sp)

/-- If SWI runs on a quiet board with its seven stack bytes in RAM and different bytes of it, and RTI later runs, with
the same map and on a quiet board, at a state whose SP is the SP that SWI left and whose frame bytes are those SWI
stored, then after RTI A, B, X, SP, all six flags and pc are what they were before SWI, pc being past the SWI. What
the handler did otherwise is free. Rests on 43_jump_branch.md R260, 43_jump_branch.md R262, 43_jump_branch.md R264,
60_exceptions.md R317, 60_exceptions.md R321. -/
def Obligations.InterruptFrameRoundTrip : Prop :=
  ∀ s t u : State, s.Quiet → s.MemoryOk → s.Writable s.frameAddrs → exec .swi s = .next t →
    u.Quiet → u.board.map = s.board.map → u.sp = t.sp →
    (∀ k < 7, u.byteAt (s.sp - BitVec.ofNat 16 k) = t.byteAt (s.sp - BitVec.ofNat 16 k)) →
    ∃ v, exec .rti u = .next v ∧ v.a = s.a ∧ v.b = s.b ∧ v.x = s.x ∧ v.sp = s.sp ∧ v.cc = s.cc ∧ v.pc = s.pc

/-- If BSR or JSR runs on a quiet board with its two stack bytes in RAM and different bytes of it, and RTS later runs,
with the same map and on a quiet board, at a state whose SP is the one the call left and whose two stacked bytes are
those the call stored, then RTS gives the SP before the call and pc past the call. Rests on 43_jump_branch.md R256,
43_jump_branch.md R258, 43_jump_branch.md R261, 43_jump_branch.md R264. -/
def Obligations.CallReturnRoundTrip : Prop :=
  ∀ (s t u : State) (i : Instr) (r o : Byte) (w : Word), i ∈ [Instr.bsr r, .jsrIdx o, .jsrExt w] →
    s.Quiet → s.MemoryOk → s.Writable [s.sp, s.sp - 1] → exec i s = .next t →
    u.Quiet → u.board.map = s.board.map → u.sp = t.sp → u.byteAt s.sp = t.byteAt s.sp →
    u.byteAt (s.sp - 1) = t.byteAt (s.sp - 1) →
    ∃ v, exec .rts u = .next v ∧ v.sp = s.sp ∧ v.pc = s.pc

/-- At a boundary with Halt high and an NMI latched, whatever IRQ and I are, step gives a next state: SP lowered by 7,
I set, no other register or flag changed; exactly the seven frame bytes change, as far as they are RAM; if the vector
bytes are RAM or ROM, pc is the word then standing at FFFC and the latch is clear. 12 machine cycles. That NMI comes
before IRQ is decision D3. That an IRQ remembered from a halt stays remembered is the model's choice, log 10 (DESIGN
CHOICE). Rests on 60_exceptions.md R313, 60_exceptions.md R315, 60_exceptions.md R316, 60_exceptions.md R317,
60_exceptions.md R318, 70_reset_and_hazards.md R412, 92_eei_decisions.md D3. -/
def Obligations.NmiEntry : Prop :=
  ∀ s : State, s.AtBoundary → s.board.lines.haltLow = false → s.board.nmiPending = true →
    ∃ t, step s = .next t ∧
      t = { s with sp := s.sp - 7, cc := { s.cc with i := true }, pc := t.pc, board := t.board } ∧
      FrameStored s.begin t ∧ t.board.trace.length = 12 ∧
      (s.VectorReadable 0xFFFC → t.pc = t.wordAt 0xFFFC ∧ t.board.nmiPending = false)

/-- At a boundary with Halt high, no NMI latched, the IRQ line low and I = 0, step gives a next state: SP lowered by
7, I set, no other register or flag changed, but that an IRQ remembered from a halt is forgotten (log 10, DESIGN
CHOICE); exactly the seven frame bytes change, as far as they are RAM; if the vector bytes are RAM or ROM, pc is the
word then standing at FFF8. 12 machine cycles. Rests on 60_exceptions.md R312, 60_exceptions.md R315, 60_exceptions.md
R316, 60_exceptions.md R317, 60_exceptions.md R318, 70_reset_and_hazards.md R412. -/
def Obligations.IrqEntry : Prop :=
  ∀ s : State, s.AtBoundary → s.board.lines.haltLow = false → s.board.nmiPending = false →
    s.board.irqLow = true → s.cc.i = false →
    ∃ t, step s = .next t ∧
      t = { s with sp := s.sp - 7, cc := { s.cc with i := true }, pc := t.pc, haltIrq := false, board := t.board } ∧
      FrameStored s.begin t ∧ t.board.trace.length = 12 ∧ (s.VectorReadable 0xFFF8 → t.pc = t.wordAt 0xFFF8)

/-- In WAITING with no Reset, the clock kept and a quiet environment: with Halt low (decision D13) or nothing to
serve, a step changes no register and is one machine cycle with the buses released; with an NMI latched pc becomes the
word at FFFC and I is set; else with IRQ low and I = 0 pc becomes the word at FFF8 and I is set. Waking stacks
nothing, changes no byte of memory, leaves every other register and takes 4 machine cycles. That a step that waits on
is one machine cycle is the reading of log 32 (DEDUCED). That an IRQ remembered from a halt stays remembered through
the wait and the wake is the model's choice, log 10 (DESIGN CHOICE). Rests on 10_state.md R38, 43_jump_branch.md R263,
60_exceptions.md R323, 60_exceptions.md R333, 70_reset_and_hazards.md R412, 92_eei_decisions.md D3,
92_eei_decisions.md D13. -/
def Obligations.WaitEnds : Prop :=
  ∀ s : State, s.run = .waiting → s.resetAsked = false → s.board.destroyed = false → s.board.env = [] →
    ∃ t, step s = .next t ∧ (∀ a, t.byteAt a = s.byteAt a) ∧
      (s.board.lines.haltLow = true → t = { s with board := t.board } ∧ t.board.trace = [.released]) ∧
      (s.board.lines.haltLow = false → s.board.nmiPending = true →
        t = { s with run := .running, cc := { s.cc with i := true }, pc := t.pc, board := t.board } ∧
        t.board.trace.length = 4 ∧ (s.VectorReadable 0xFFFC → t.pc = s.wordAt 0xFFFC ∧ t.board.nmiPending = false)) ∧
      (s.board.lines.haltLow = false → s.board.nmiPending = false → s.board.irqLow = true → s.cc.i = false →
        t = { s with run := .running, cc := { s.cc with i := true }, pc := t.pc, board := t.board } ∧
        t.board.trace.length = 4 ∧ (s.VectorReadable 0xFFF8 → t.pc = s.wordAt 0xFFF8)) ∧
      (s.board.nmiPending = false → (s.board.irqLow = false ∨ s.cc.i = true) →
        t = { s with board := t.board } ∧ t.board.trace = [.released])

/-- At a boundary with Halt low, whatever NMI and IRQ are, a step only makes the run state HALTED. In HALTED with Halt
low, whatever the environment does in that machine cycle short of an access of another master, a step changes no
register and notes that IRQ was low exactly if it was noted before or IRQ was low after one of the events; if the
environment does nothing it changes no byte of memory and is one machine cycle with the buses released; with Halt high
it makes the run state RUNNING, changes no other register and remembers an IRQ exactly if IRQ was low during the halt,
is high again now, and I is 0 (or one was remembered before). At a boundary with Halt high, no NMI latched, IRQ high,
I = 0 and an IRQ remembered, a free bit decides: the step is the IRQ entry, or it is the step of the same state with
nothing remembered. Both are as decision D10 admits; keeping the request through an NMI is log 10. That a step in
HALTED with Halt low is one machine cycle is the reading of log 32 (DEDUCED). Rests on 10_state.md R37, 10_state.md
R38, 60_exceptions.md R324, 60_exceptions.md R325, 60_exceptions.md R333, 90_conflicts.md C9, 92_eei_decisions.md D10.
-/
def Obligations.HaltedMachine : Prop :=
  ∀ s : State,
    (s.AtBoundary → s.board.lines.haltLow = true →
      ∃ t, step s = .next t ∧ t = { s with run := .halted, board := t.board } ∧ (∀ a, t.byteAt a = s.byteAt a) ∧
        t.board.nmiPending = s.board.nmiPending ∧ t.board.irqSeen = s.board.irqLow) ∧
    (s.run = .halted → s.resetAsked = false → s.board.destroyed = false → s.board.env = [] →
      (s.board.lines.haltLow = true →
        ∃ t, step s = .next t ∧ t = { s with board := t.board } ∧ (∀ a, t.byteAt a = s.byteAt a) ∧
          t.board.trace = [.released] ∧ t.board.irqSeen = s.board.irqSeen) ∧
      (s.board.lines.haltLow = false →
        ∃ t, step s = .next t ∧
          t = { s with run := .running, haltIrq := t.haltIrq, board := t.board } ∧
          (t.haltIrq = true ↔
            s.haltIrq = true ∨ (s.board.irqSeen = true ∧ s.board.irqLow = false ∧ s.cc.i = false)) ∧
          (∀ a, t.byteAt a = s.byteAt a) ∧ t.board.nmiPending = s.board.nmiPending)) ∧
    (s.run = .halted → s.resetAsked = false → s.board.destroyed = false → s.board.lines.haltLow = true →
      ∀ events rest, s.board.env = events :: rest →
      (∀ e ∈ events, (∀ a, e ≠ .masterRead a) ∧ ∀ a v, e ≠ .masterWrite a v) →
        ∃ t, step s = .next t ∧ t = { s with board := t.board } ∧
          (t.board.irqSeen = true ↔ s.board.irqSeen = true ∨
            ∃ k < events.length, ((events.take (k + 1)).foldl Board.event s.board).irqLow = true)) ∧
    (s.AtBoundary → s.board.lines.haltLow = false → s.board.nmiPending = false → s.board.irqLow = false →
      s.cc.i = false → s.haltIrq = true →
      (Config.freeBit s.board.free = true → ∃ t, step s = .next t ∧
        t = { s with sp := s.sp - 7, cc := { s.cc with i := true }, pc := t.pc, haltIrq := false, board := t.board } ∧
        FrameStored s.begin t ∧ t.board.trace.length = 12 ∧ (s.VectorReadable 0xFFF8 → t.pc = t.wordAt 0xFFF8)) ∧
      (Config.freeBit s.board.free = false → step s = step { s with haltIrq := false, board := s.board.bump }))

/-- In any run state but RESET a Reset that is low, or has been low and is not yet served, makes the run state RESET
and nothing else. In RESET with the line high, after at least eight machine cycles low with the clock within its
limits, a step restarts: RUNNING, I = 1, and on a quiet board with RAM or ROM at the vector pc is the word at FFFE,
the NMI latch is clear (decision D9, log 19) and no byte of memory has changed. After fewer, nothing but memory is
promised (log 12). Clocks out of their limits start the count again. That an IRQ remembered from a halt is not
forgotten before the restart is the model's choice, log 10 (DESIGN CHOICE). Rests on 60_exceptions.md R315,
60_exceptions.md R327, 60_exceptions.md R333, 70_reset_and_hazards.md R400, 70_reset_and_hazards.md R402, 10_state.md
R42, 92_eei_decisions.md D9, 93_implementation_defined.md U7, 93_implementation_defined.md U8. -/
def Obligations.ResetOverrides : Prop :=
  ∀ s : State,
    (s.run ≠ .reset → s.resetAsked = true →
      ∃ t, step s = .next t ∧ t = { s with run := .reset, board := t.board } ∧ (∀ a, t.byteAt a = s.byteAt a)) ∧
    (s.run = .reset → s.board.lines.resetLow = false → (∀ n, s.board.resetFor = some n → 8 ≤ n) →
      (s.board.resetFor = none → s.board.destroyed = false) →
      ∃ t, step s = .next t ∧ t.run = .running ∧ t.cc.i = true ∧
        (s.board.env = [] → s.VectorReadable 0xFFFE →
          t.pc = s.wordAt 0xFFFE ∧ t.board.nmiPending = false ∧ (∀ a, t.byteAt a = s.byteAt a))) ∧
    (∀ n < 8, s.run = .reset → s.board.lines.resetLow = false → s.board.resetFor = some n →
      ∃ t, step s = .next t ∧ (∀ a, t.byteAt a = s.byteAt a)) ∧
    ((s.board.event .clockLost).destroyed = true ∧
      ∀ n, s.board.resetFor = some n → (s.board.event .clockLost).resetFor = some 0)

/-- For every state with the invariant (canonical memory; a map as decision D1 asks, with a device for each device
region; each C2 in a level output mode follows its control bit 3; each ACIA condition armed for clearing is present,
and no overrun while DCD is high, log 46; every register of a PIA whose Reset pin is low is 00), whatever the
environment does: if step gives a next state, that state has the invariant. Rests on 20_memory.md R50,
92_eei_decisions.md D1, 60_exceptions.md R343, 60_exceptions.md R353, 60_exceptions.md R354, 60_exceptions.md R367,
60_exceptions.md R370, 60_exceptions.md R374, 60_exceptions.md R377, 60_exceptions.md R383. -/
def Obligations.StepKeepsTheInvariant : Prop :=
  ∀ s t : State, s.Inv → step s = .next t → t.Inv

/-- State.reset has canonical memory, a well-formed map, devices for its device regions, devices in legal states, and
no PIA whose Reset pin is low with a register that is not 00. The map itself is the model's choice (log 4). Rests on
20_memory.md R50, 92_eei_decisions.md D1, 60_exceptions.md R343. -/
def Obligations.ResetHasTheInvariant : Prop :=
  State.reset.Inv

/-- For every state and every environment, other bus masters included: if step gives a next state, the map is the same
and every address that is not RAM (ROM, device or nothing) holds the byte it held. Rests on 20_memory.md R68,
60_exceptions.md R381, 60_exceptions.md R382, 60_exceptions.md R383, 92_eei_decisions.md D5. -/
def Obligations.OnlyRamChanges : Prop :=
  ∀ s t : State, step s = .next t →
    t.board.map = s.board.map ∧ ∀ a, s.isRam a = false → t.byteAt a = s.byteAt a

/-- In State.reset I is 1, the run state is RUNNING, the NMI latch is clear, pc is the word at FFFE, every PIA
register is 00 and every ACIA is held in its reset condition. That the NMI latch is clear is decision D9 (log 19);
that the run state is RUNNING with pc already loaded is the reading of log 2 (DEDUCED). The values of A, B, X, SP and
the other flags there are the model's choice, log 1, and not stated. Rests on 10_state.md R41, 60_exceptions.md R343,
60_exceptions.md R362, 70_reset_and_hazards.md R403, 92_eei_decisions.md D9. -/
def Obligations.StateAtReset : Prop :=
  State.reset.cc.i = true ∧ State.reset.run = .running ∧ State.reset.board.nmiPending = false ∧
    State.reset.pc = State.reset.wordAt 0xFFFE ∧
    (∀ p ∈ State.reset.board.pias, p.sideA.out = 0 ∧ p.sideA.ddr = 0 ∧ p.sideA.ctl = 0 ∧ p.sideB.out = 0 ∧
      p.sideB.ddr = 0 ∧ p.sideB.ctl = 0) ∧
    (∀ p ∈ State.reset.board.acias, p.held = true)

/-- Bit 2 of the control register of a side selects the peripheral register or the data direction register; a
direction register returns and stores all 8 bits without side effect; a control register reads whole without side
effect, and a write stores bits 5 to 0 and keeps 7 and 6; a write of a peripheral register stores all 8 bits and
clears no flag. A read of A gives pin levels, of B pins for inputs and the output register for outputs. Rests on
60_exceptions.md R341, 60_exceptions.md R344, 60_exceptions.md R345, 60_exceptions.md R346, 60_exceptions.md R347,
60_exceptions.md R348. -/
def Obligations.PiaRegisters : Prop :=
  ∀ (p : Pia) (free v : Byte),
    (p.sideA.ctl.getLsbD 2 = false → p.read 0 = (p.sideA.ddr, p) ∧
      p.write free 0 v = { p with sideA := { p.sideA with ddr := v } }) ∧
    (p.sideB.ctl.getLsbD 2 = false → p.read 2 = (p.sideB.ddr, p) ∧
      p.write free 2 v = { p with sideB := { p.sideB with ddr := v } }) ∧
    p.read 1 = (p.sideA.ctl, p) ∧ p.read 3 = (p.sideB.ctl, p) ∧
    (∀ k < 8, (p.write free 1 v).sideA.ctl.getLsbD k = if k < 6 then v.getLsbD k else p.sideA.ctl.getLsbD k) ∧
    (∀ k < 8, (p.write free 3 v).sideB.ctl.getLsbD k = if k < 6 then v.getLsbD k else p.sideB.ctl.getLsbD k) ∧
    (p.sideA.ctl.getLsbD 2 = true →
      (p.write free 0 v).sideA.out = v ∧ (p.write free 0 v).sideA.ctl = p.sideA.ctl ∧
      ∀ k < 8, (p.read 0).1.getLsbD k =
        if p.sideA.ddr.getLsbD k && !p.sideA.loaded.getLsbD k then p.sideA.out.getLsbD k else p.sideA.pins.getLsbD k) ∧
    (p.sideB.ctl.getLsbD 2 = true →
      (p.write free 2 v).sideB.out = v ∧ (p.write free 2 v).sideB.ctl = p.sideB.ctl ∧
      ∀ k < 8, (p.read 2).1.getLsbD k =
        if p.sideB.ddr.getLsbD k then p.sideB.out.getLsbD k else p.sideB.pins.getLsbD k)

/-- For each side: a change of C1 to the active level, with the flag enabled and the edge network conditioned, sets
flag 7 whether or not bit 0 enables it; a change to the other level sets nothing. C2 likewise sets flag 6 while it is
an input and never while it is an output. The interrupt output is low exactly if (7 and 0) or (6 and 3 and not 5). A
read of Peripheral Register A, that is at offset 0 with bit 2 of its control register 1, makes bits 7 and 6 of control
register A 0 and its interrupt output inactive, keeps its bits 5 to 0, and leaves control register B alone; a read of
B at offset 2 likewise with A and B exchanged; a read of a direction or control register, at whichever offset, changes
nothing. After such a read both flags are still 0 and not enabled when C1 and C2 have each taken a level and a pulse
that selects the PIA has passed; a pulse that does not select it enables both again. That an edge sets nothing while
the flag is not re-enabled or the network not conditioned is log 23 (DEDUCED): R351 and decision D18 only oblige the
environment not to send one. Rests on 60_exceptions.md R349, 60_exceptions.md R350, 60_exceptions.md R351,
60_exceptions.md R352, 92_eei_decisions.md D18. -/
def Obligations.PiaInterruptFlags : Prop :=
  ∀ (p : PiaSide) (q : Pia) (l m : Bool),
    ((p.setC1 l).ctl.getLsbD 7 = true ↔ p.ctl.getLsbD 7 = true ∨
      (l ≠ p.c1 ∧ l = p.ctl.getLsbD 1 ∧ p.en1 = true ∧ p.cond1 = true)) ∧
    ((p.setC2 l).ctl.getLsbD 6 = true ↔ p.ctl.getLsbD 6 = true ∨
      (l ≠ p.c2 ∧ l = p.ctl.getLsbD 4 ∧ p.ctl.getLsbD 5 = false ∧ p.en2 = true ∧ p.cond2 = true)) ∧
    (p.irqLow = true ↔ (p.ctl.getLsbD 7 = true ∧ p.ctl.getLsbD 0 = true) ∨
      (p.ctl.getLsbD 6 = true ∧ p.ctl.getLsbD 3 = true ∧ p.ctl.getLsbD 5 = false)) ∧
    (let served := fun old new : PiaSide =>
        new.ctl.getLsbD 7 = false ∧ new.ctl.getLsbD 6 = false ∧ (∀ k < 6, new.ctl.getLsbD k = old.ctl.getLsbD k) ∧
        new.irqLow = false ∧
        (((new.setC1 l).setC2 m).ePulse true).ctl.getLsbD 7 = false ∧
        (((new.setC1 l).setC2 m).ePulse true).ctl.getLsbD 6 = false ∧
        (((new.setC1 l).setC2 m).ePulse true).en1 = false ∧ (((new.setC1 l).setC2 m).ePulse true).en2 = false ∧
        (new.ePulse false).en1 = true ∧ (new.ePulse false).en2 = true;
      (q.sideA.ctl.getLsbD 2 = true →
        served q.sideA (q.read 0).2.sideA ∧ (q.read 0).2.sideB = q.sideB) ∧
      (q.sideB.ctl.getLsbD 2 = true →
        served q.sideB (q.read 2).2.sideB ∧ (q.read 2).2.sideA = q.sideA) ∧
      (q.sideA.ctl.getLsbD 2 = false → (q.read 0).2 = q) ∧ (q.sideB.ctl.getLsbD 2 = false → (q.read 2).2 = q) ∧
      (q.read 1).2 = q ∧ (q.read 3).2 = q)

/-- In modes 100 and 101 a read of peripheral register A makes CA2 low and a write of peripheral register B makes CB2
low; in mode 100 the line rises when flag 7 is set by an active transition of C1, in mode 101 on a deselected E pulse.
In modes 110 and 111 a write of the control register puts its bit 3 on the line. A write of A and a read of B move
neither. That C2 falls in the machine cycle of the access itself and that the strobe of mode 101 ends at the first
deselected pulse, on both sides, is log 23 (DEDUCED), where R353 names the E pulses that follow. Rests on
60_exceptions.md R353, 60_exceptions.md R354, 92_eei_decisions.md D18. -/
def Obligations.PiaHandshakes : Prop :=
  ∀ (p : Pia) (free v : Byte),
    (p.sideA.ctl.getLsbD 2 = true → p.sideA.ctl.getLsbD 5 = true → p.sideA.ctl.getLsbD 4 = false →
      (p.read 0).2.sideA.c2out = false ∧ (p.write free 0 v).sideA.c2out = p.sideA.c2out) ∧
    (p.sideB.ctl.getLsbD 2 = true → p.sideB.ctl.getLsbD 5 = true → p.sideB.ctl.getLsbD 4 = false →
      (p.write free 2 v).sideB.c2out = false ∧ (p.read 2).2.sideB.c2out = p.sideB.c2out) ∧
    (v.getLsbD 5 = true → v.getLsbD 4 = true →
      (p.write free 1 v).sideA.c2out = v.getLsbD 3 ∧ (p.write free 3 v).sideB.c2out = v.getLsbD 3) ∧
    (∀ (q : PiaSide) (l : Bool), q.ctl.getLsbD 5 = true → q.ctl.getLsbD 4 = false →
      (q.ctl.getLsbD 3 = false → l ≠ q.c1 → l = q.ctl.getLsbD 1 → q.en1 = true → q.cond1 = true →
        (q.setC1 l).c2out = true) ∧
      (q.ctl.getLsbD 3 = true → (q.ePulse false).c2out = true ∧ (q.ePulse true).c2out = q.c2out) ∧
      (q.ctl.getLsbD 3 = false → (q.ePulse false).c2out = q.c2out))

/-- The event of Reset going low makes all six registers of every PIA whose Reset pin is wired to it 00 and its
interrupt outputs inactive; the ACIAs and every byte of memory are unchanged. The same holds of a PIA on a Reset pin
of its own when the environment drives that pin low (log 48, DESIGN CHOICE). After every machine cycle, a write to the
PIA included, whatever the environment does and whatever stood in it before, a PIA whose Reset pin is low has all six
registers 00 and its interrupt outputs inactive. That it is held zeroed so through every cycle, access and pulse, the
third of these claims, is the model's choice, log 39 (DEDUCED): R343 only zeroes the registers and asks that Reset be
high before the PIA is addressed. Rests on 60_exceptions.md R343, 70_reset_and_hazards.md R403. -/
def Obligations.SystemResetZeroesPias : Prop :=
  ∀ b : Board,
    let zeroed := fun p : Pia => p.cleared = true ∧ p.sideA.irqLow = false ∧ p.sideB.irqLow = false
    (∀ p ∈ (b.event (.reset true)).pias, p.resetWired = true → zeroed p) ∧
    (b.event (.reset true)).acias = b.acias ∧ (b.event (.reset true)).mem = b.mem ∧
    (∀ n p, (b.event (.piaReset n true)).pias[n]? = some p → p.resetWired = false → zeroed p) ∧
    (∀ n, (b.event (.piaReset n true)).acias = b.acias ∧ (b.event (.piaReset n true)).mem = b.mem) ∧
    (∀ (a : Addr) (v : Byte) (x : BusCycle), ∀ c ∈ [(b.busRead a).2, b.busWrite a v, b.idle x], ∀ p ∈ c.pias,
      (if p.resetWired then c.lines.resetLow else p.resetLow) = true → zeroed p)

/-- Once released from power-on reset, a read at offset 0 returns: RDRF unless DCD is high; TDRE unless CTS is high or
the master reset is selected; DCD latched or the input; CTS the input; FE, OVRN, PE; and bit 7 high exactly if CR6 =
0, CR5 = 1 and TDRE, or CR7 and (RDRF or an overrun or a DCD condition). That is also when the IRQ output is low. The
read changes no status bit. That TDRE reads 0 while control bits 1 and 0 are both ones is the reading of log 27
(DEDUCED). Rests on 60_exceptions.md R367, 60_exceptions.md R368, 60_exceptions.md R369, 60_exceptions.md R370,
60_exceptions.md R371, 60_exceptions.md R375. -/
def Obligations.AciaStatusByte : Prop :=
  ∀ (p : Acia) (free : Byte), p.held = false →
    let v := (p.read free 0).1
    let rdrf := p.rdrf && !p.dcd
    let tdre := p.tdre && !p.cts && !(p.ctl.getLsbD 1 && p.ctl.getLsbD 0)
    v.getLsbD 0 = rdrf ∧ v.getLsbD 1 = tdre ∧ v.getLsbD 2 = (p.dcdLatch || p.dcd) ∧ v.getLsbD 3 = p.cts ∧
      v.getLsbD 4 = p.fe ∧ v.getLsbD 5 = p.ovrn ∧ v.getLsbD 6 = p.pe ∧
      v.getLsbD 7 = ((!p.ctl.getLsbD 6 && p.ctl.getLsbD 5 && tdre) ||
        (p.ctl.getLsbD 7 && (rdrf || p.ovrnInt || p.dcdLatch))) ∧
      p.irqLow = v.getLsbD 7 ∧ (p.read free 0).2.status = v

/-- A write of a control byte with bits 1 and 0 ones stores the byte, releases the power-on reset, clears RDRF, FE,
OVRN, PE and the overrun and DCD conditions, empties the shift register and keeps the CTS and DCD inputs. That status
bit 1 then reads 0 until another divide ratio is written is the reading of log 27 (DEDUCED). A later control byte with
another ratio makes TDRE indicate empty if CTS is low, as U13 treats it (log 27). Rests on 60_exceptions.md R362,
60_exceptions.md R363, 60_exceptions.md R368, 60_exceptions.md R369, 60_exceptions.md R370, 60_exceptions.md R371,
93_implementation_defined.md U13. -/
def Obligations.AciaMasterReset : Prop :=
  ∀ (p : Acia) (v w free : Byte), v.getLsbD 1 = true → v.getLsbD 0 = true → (w.getLsbD 1 && w.getLsbD 0) = false →
    let q := p.write 0 v
    q.ctl = v ∧ q.held = false ∧ q.tsr = none ∧ q.cts = p.cts ∧ q.dcd = p.dcd ∧
      (∀ k < 8, k ≠ 2 → k ≠ 3 → (q.read free 0).1.getLsbD k = false) ∧
      (q.read free 0).1.getLsbD 2 = p.dcd ∧ (q.read free 0).1.getLsbD 3 = p.cts ∧
      ((q.write 0 w).read free 0).1.getLsbD 1 = !p.cts

/-- With the receiver active and RDR empty: a character received is returned by the next read of RDR, which clears
RDRF; FE is as received, and PE too if parity is selected, else 0. If a second one comes first, it is lost: the first
read still returns the first character (bit 7 zero in the 7-bit modes), only then is OVRN shown, RDRF staying set, and
the next read clears both (this order of the reads is log 29, DEDUCED). When DCD goes high the receiver is
initialised: no overrun is recorded or shown (log 46, DEDUCED), RDRF reads 0 and nothing is received; status bit 2 is
1, interrupts if CR7 is set, and stays after DCD is low again; a read of RDR alone does not clear it, a status read
and then a read of RDR does, and the bit then follows the input. That a status read from before the rise of DCD does
not count is the model's choice, log 53 (DESIGN CHOICE). Rests on 60_exceptions.md R364, 60_exceptions.md R366,
60_exceptions.md R368, 60_exceptions.md R370, 60_exceptions.md R372, 60_exceptions.md R374, 60_exceptions.md R375,
60_exceptions.md R377. -/
def Obligations.AciaReceiver : Prop :=
  ∀ (p : Acia) (u v free free' : Byte) (fe pe fe' pe' keep keep' : Bool),
    p.inReset = false → p.dcd = false →
    (p.rdrf = false → p.ovrnPending = false → p.ovrn = false →
      let one := p.receive u fe pe
      let two := one.receive v fe' pe'
      let char := if p.ctl.getLsbD 4 then u else u &&& 0x7F
      one.rdrf = true ∧ one.fe = fe ∧ one.pe = (pe && (!p.ctl.getLsbD 4 || p.ctl.getLsbD 3)) ∧
        (one.read free 1).1 = char ∧ (one.read free 1).2.rdrf = false ∧ (one.read free 1).2.ovrn = false ∧
        two.ovrn = false ∧ (two.read free 1).1 = char ∧ (two.read free 1).2.ovrn = true ∧
        (two.read free 1).2.rdrf = true ∧
        ((two.read free 1).2.read free 1).2.ovrn = false ∧ ((two.read free 1).2.read free 1).2.rdrf = false) ∧
    (let lost := p.setDcd keep true
      let back := lost.setDcd keep' false
      let cleared := fun q : Acia => ((q.read free 0).2.read free 1).2
      lost.ovrn = false ∧ lost.ovrnPending = false ∧ lost.ovrnInt = false ∧ lost.receive u fe pe = lost ∧
        (lost.read free 0).1.getLsbD 0 = false ∧ (lost.read free 0).1.getLsbD 2 = true ∧
        (p.ctl.getLsbD 7 = true → (lost.read free 0).1.getLsbD 7 = true) ∧
        (back.read free 0).1.getLsbD 2 = true ∧ ((back.read free 1).2.read free' 0).1.getLsbD 2 = true ∧
        ((cleared lost).read free' 0).1.getLsbD 2 = true ∧ (cleared lost).dcdLatch = false ∧
        (((cleared lost).setDcd keep' false).read free' 0).1.getLsbD 2 = false ∧
        ((cleared back).read free' 0).1.getLsbD 2 = false)

/-- With the chip out of reset: a write at offset 1 makes TDRE low; when the idle transmitter takes the character, the
shift register holds its data bits (bit 7 is dropped in the 7-bit modes) and TDRE is high again; a further character
written meanwhile waits and is taken when the first is complete; writing again before that replaces it. The character
goes out with no parity bit in codes 100 and 101 of the word select, and otherwise with the one that makes the number
of ones odd (CR2 = 1) or even. Rests on 60_exceptions.md R364, 60_exceptions.md R369, 60_exceptions.md R373,
60_exceptions.md R376. -/
def Obligations.AciaTransmit : Prop :=
  ∀ (p : Acia) (u v w : Byte), p.inReset = false → p.tsr = none →
    let one := p.write 1 u
    let sending := one.take
    let waiting := sending.write 1 v
    let char := fun c : Byte => if p.ctl.getLsbD 4 then c else c &&& 0x7F
    one.tdre = false ∧ sending.tsr = some (char u) ∧ sending.tdre = true ∧ waiting.tdre = false ∧
      waiting.take = waiting ∧ waiting.sent.tsr = some (char v) ∧ waiting.sent.tdre = true ∧
      (waiting.write 1 w).sent.tsr = some (char w) ∧
      ∃ parity, sending.sending = some (char u, parity) ∧
        (parity = none ↔ p.ctl.getLsbD 4 = true ∧ p.ctl.getLsbD 3 = false) ∧
        ∀ bit, parity = some bit →
          ((List.range 8).countP (fun k => (char u).getLsbD k) + bitNat bit) % 2 = bitNat (p.ctl.getLsbD 2)

/-- The IRQ and the NMI line are low exactly if the environment drives them low or the output of a PIA or ACIA wired
to them is low. After any event of the environment that is no access of another master, the NMI latch is set exactly
if it was set or NMI is low now and was high when last sampled; so it is set by a fall and not again by a low level
that is held, and two falls are one latch. That IRQ was low is noted after such an event exactly if it was noted
before or IRQ is low now. The same holds of an access to any address, for a board whose last samples of NMI and IRQ
are their levels. When each sample is taken is log 38 (DEDUCED). Rests on 10_state.md R36, 10_state.md R37,
60_exceptions.md R311, 60_exceptions.md R313, 60_exceptions.md R325, 60_exceptions.md R352, 60_exceptions.md R375,
93_implementation_defined.md U17. -/
def Obligations.InterruptInputs : Prop :=
  ∀ b : Board,
    (∀ w, (w = Wire.irq ∨ w = Wire.nmi) →
      ((if w = Wire.irq then b.irqLow else b.nmiLow) = true ↔
        (if w = Wire.irq then b.lines.irqLow else b.lines.nmiLow) = true ∨
        (∃ p ∈ b.pias, (p.wireA = w ∧ p.sideA.irqLow = true) ∨ (p.wireB = w ∧ p.sideB.irqLow = true)) ∨
        (∃ p ∈ b.acias, p.wire = w ∧ p.irqLow = true))) ∧
    (∀ e, (∀ a, e ≠ .masterRead a) → (∀ a v, e ≠ .masterWrite a v) →
      (b.event e).nmiSeen = (b.event e).nmiLow ∧
      ((b.event e).nmiPending = true ↔
        b.nmiPending = true ∨ ((b.event e).nmiLow = true ∧ b.nmiSeen = false)) ∧
      ((b.event e).irqSeen = true ↔ b.irqSeen = true ∨ (b.event e).irqLow = true)) ∧
    (b.nmiSeen = false → (b.event (.nmi true)).nmiPending = true) ∧
    (b.nmiSeen = b.nmiLow → ∀ (a : Addr) (v : Byte), ∀ c ∈ [(b.accessRead a).2, b.accessWrite a v],
      c.nmiSeen = c.nmiLow ∧
      (c.nmiPending = true ↔ b.nmiPending = true ∨ (c.nmiLow = true ∧ b.nmiLow = false))) ∧
    ((b.irqLow = true → b.irqSeen = true) → ∀ (a : Addr) (v : Byte), ∀ c ∈ [(b.accessRead a).2, b.accessWrite a v],
      (c.irqSeen = true ↔ b.irqSeen = true ∨ c.irqLow = true))
end

