-- ==== Sys2Proof/Laws/Devices.lean ====
section
/-! SUPPORT. Laws of the PIA and the ACIA: every operation keeps the device in a legal state. -/

namespace Sys2Proof.Machine

/-! ### The PIA -/

theorem PiaSide.ok_iff (p : PiaSide) :
    p.ok = true ↔ (p.ctl.getLsbD 5 = true → p.ctl.getLsbD 4 = true → p.c2out = p.ctl.getLsbD 3) := by
  unfold PiaSide.ok PiaSide.c2IsOutput PiaSide.bit4 PiaSide.bit3
  cases p.ctl.getLsbD 5 <;> cases p.ctl.getLsbD 4 <;> simp

theorem PiaSide.ok_of_eq {p q : PiaSide} (hp : p.ok = true) (h5 : q.ctl.getLsbD 5 = p.ctl.getLsbD 5)
    (h4 : q.ctl.getLsbD 4 = p.ctl.getLsbD 4) (h3 : q.ctl.getLsbD 3 = p.ctl.getLsbD 3)
    (hc : p.ctl.getLsbD 5 = true → p.ctl.getLsbD 4 = true → q.c2out = p.c2out) : q.ok = true := by
  rw [PiaSide.ok_iff] at hp ⊢
  rw [h5, h4, h3]
  intro a b
  rw [hc a b, hp a b]

/-- Masks of the flag bits leave the mode bits alone. -/
theorem flagMasks (c : Byte) (k : Nat) (hk : k < 6) :
    (c &&& 0x3F).getLsbD k = c.getLsbD k ∧ (c ||| 0x80).getLsbD k = c.getLsbD k ∧ (c ||| 0x40).getLsbD k = c.getLsbD k := by
  have h : k = 0 ∨ k = 1 ∨ k = 2 ∨ k = 3 ∨ k = 4 ∨ k = 5 := by omega
  rcases h with rfl | rfl | rfl | rfl | rfl | rfl <;> simp

/-- A write of a control register takes its mode bits from the byte written. -/
theorem controlMerge (c v : Byte) (k : Nat) (hk : k < 6) :
    ((c &&& 0xC0) ||| (v &&& 0x3F)).getLsbD k = v.getLsbD k := by
  have h : k = 0 ∨ k = 1 ∨ k = 2 ∨ k = 3 ∨ k = 4 ∨ k = 5 := by omega
  rcases h with rfl | rfl | rfl | rfl | rfl | rfl <;> simp

theorem PiaSide.ok_clearFlags {p : PiaSide} (h : p.ok = true) : p.clearFlags.ok = true :=
  PiaSide.ok_of_eq h (flagMasks p.ctl 5 (by omega)).1 (flagMasks p.ctl 4 (by omega)).1 (flagMasks p.ctl 3 (by omega)).1
    (fun _ _ => rfl)

theorem PiaSide.ok_c2Fall {p : PiaSide} (h : p.ok = true) : p.c2Fall.ok = true := by
  unfold PiaSide.c2Fall
  split
  · rename_i hh
    refine PiaSide.ok_of_eq h rfl rfl rfl (fun h5 h4 => ?_)
    exact absurd hh (by simp [PiaSide.handshake, PiaSide.bit4, h4])
  · exact h

theorem PiaSide.ok_writeCtl (free v : Byte) (p : PiaSide) : (p.writeCtl free v).ok = true := by
  rw [PiaSide.ok_iff]
  unfold PiaSide.writeCtl
  simp only []
  rw [controlMerge _ _ 5 (by omega), controlMerge _ _ 4 (by omega), controlMerge _ _ 3 (by omega)]
  intro a b
  rw [if_pos a, if_pos b]

theorem PiaSide.ok_reset (p : PiaSide) : p.reset.ok = true := by
  rw [PiaSide.ok_iff]
  intro h
  exact absurd h (by simp [PiaSide.reset])

theorem PiaSide.ok_ePulse {p : PiaSide} (sel : Bool) (h : p.ok = true) : (p.ePulse sel).ok = true := by
  refine PiaSide.ok_of_eq h rfl rfl rfl (fun h5 h4 => ?_)
  show (if p.handshake && p.bit3 && !sel then true else p.c2out) = p.c2out
  rw [show p.handshake = false from by simp [PiaSide.handshake, PiaSide.bit4, h4]]
  rfl

theorem PiaSide.ok_setC1 {p : PiaSide} (l : Bool) (h : p.ok = true) : (p.setC1 l).ok = true := by
  unfold PiaSide.setC1
  split
  · exact h
  · simp only []
    split
    · refine PiaSide.ok_of_eq h (flagMasks p.ctl 5 (by omega)).2.1 (flagMasks p.ctl 4 (by omega)).2.1
        (flagMasks p.ctl 3 (by omega)).2.1 (fun h5 h4 => ?_)
      show (if p.handshake && !p.bit3 then true else p.c2out) = p.c2out
      rw [show p.handshake = false from by simp [PiaSide.handshake, PiaSide.bit4, h4]]
      rfl
    · exact PiaSide.ok_of_eq h rfl rfl rfl (fun _ _ => rfl)

theorem PiaSide.ok_setC2 {p : PiaSide} (l : Bool) (h : p.ok = true) : (p.setC2 l).ok = true := by
  unfold PiaSide.setC2
  split
  · exact h
  · simp only []
    split
    · exact PiaSide.ok_of_eq h (flagMasks p.ctl 5 (by omega)).2.2 (flagMasks p.ctl 4 (by omega)).2.2
        (flagMasks p.ctl 3 (by omega)).2.2 (fun _ _ => rfl)
    · exact PiaSide.ok_of_eq h rfl rfl rfl (fun _ _ => rfl)

theorem PiaSide.ok_setPins {p : PiaSide} (x y : Byte) (h : p.ok = true) : (p.setPins x y).ok = true :=
  PiaSide.ok_of_eq h rfl rfl rfl (fun _ _ => rfl)

theorem Pia.ok_iff (p : Pia) : p.ok = true ↔ p.sideA.ok = true ∧ p.sideB.ok = true := by simp [Pia.ok]

theorem Pia.ok_onSide {p : Pia} (port : PiaPort) {f : PiaSide → PiaSide} (hf : ∀ q, q.ok = true → (f q).ok = true)
    (h : p.ok = true) : (p.onSide port f).ok = true := by
  rw [Pia.ok_iff] at h ⊢
  cases port
  · exact ⟨hf _ h.1, h.2⟩
  · exact ⟨h.1, hf _ h.2⟩

theorem Pia.ok_read {p : Pia} (off : Nat) (h : p.ok = true) : (p.read off).2.ok = true := by
  have h' := (Pia.ok_iff p).1 h
  unfold Pia.read
  split
  · split
    · exact (Pia.ok_iff _).2 ⟨PiaSide.ok_c2Fall (PiaSide.ok_clearFlags h'.1), h'.2⟩
    · exact h
  · exact h
  · split
    · exact (Pia.ok_iff _).2 ⟨h'.1, PiaSide.ok_clearFlags h'.2⟩
    · exact h
  · exact h

theorem PiaSide.ok_out {p : PiaSide} (v : Byte) (h : p.ok = true) : PiaSide.ok { p with out := v } = true :=
  PiaSide.ok_of_eq h rfl rfl rfl (fun _ _ => rfl)

theorem PiaSide.ok_ddr {p : PiaSide} (v : Byte) (h : p.ok = true) : PiaSide.ok { p with ddr := v } = true :=
  PiaSide.ok_of_eq h rfl rfl rfl (fun _ _ => rfl)

theorem Pia.ok_write {p : Pia} (free : Byte) (off : Nat) (v : Byte) (h : p.ok = true) : (p.write free off v).ok = true := by
  have h' := (Pia.ok_iff p).1 h
  unfold Pia.write
  split
  · split
    · exact (Pia.ok_iff _).2 ⟨PiaSide.ok_out v h'.1, h'.2⟩
    · exact (Pia.ok_iff _).2 ⟨PiaSide.ok_ddr v h'.1, h'.2⟩
  · exact (Pia.ok_iff _).2 ⟨PiaSide.ok_writeCtl free v _, h'.2⟩
  · split
    · exact (Pia.ok_iff _).2 ⟨h'.1, PiaSide.ok_c2Fall (PiaSide.ok_out v h'.2)⟩
    · exact (Pia.ok_iff _).2 ⟨h'.1, PiaSide.ok_ddr v h'.2⟩
  · exact (Pia.ok_iff _).2 ⟨h'.1, PiaSide.ok_writeCtl free v _⟩

theorem Pia.ok_reset (p : Pia) : p.reset.ok = true := (Pia.ok_iff _).2 ⟨PiaSide.ok_reset _, PiaSide.ok_reset _⟩

theorem Pia.ok_ePulse {p : Pia} (sel : Bool) (h : p.ok = true) : (p.ePulse sel).ok = true :=
  (Pia.ok_iff _).2 ⟨PiaSide.ok_ePulse sel ((Pia.ok_iff p).1 h).1, PiaSide.ok_ePulse sel ((Pia.ok_iff p).1 h).2⟩

/-- `reset` overwrites all that an E pulse and the registers' writes can change. -/
@[simp] theorem Pia.reset_ePulse (sel : Bool) (p : Pia) : (p.ePulse sel).reset = p.reset := rfl

@[simp] theorem Pia.held_reset (low : Bool) (p : Pia) : p.reset.held low = p.held low := rfl

@[simp] theorem Pia.held_ePulse (low sel : Bool) (p : Pia) : (p.ePulse sel).held low = p.held low := rfl

@[simp] theorem PiaSide.reset_c2Fall (p : PiaSide) : p.c2Fall.reset = p.reset := by
  unfold PiaSide.c2Fall
  split <;> rfl

/-- No read moves the Reset pin, and what one changes a reset overwrites. -/
theorem Pia.read_reset (low : Bool) (off : Nat) (p : Pia) :
    (p.read off).2.held low = p.held low ∧ (p.read off).2.reset = p.reset := by
  unfold Pia.read
  split <;> (try split) <;> refine ⟨rfl, ?_⟩ <;> simp [Pia.reset] <;> rfl

/-- The same for a write. -/
theorem Pia.write_reset (low : Bool) (free : Byte) (off : Nat) (v : Byte) (p : Pia) :
    (p.write free off v).held low = p.held low ∧ (p.write free off v).reset = p.reset := by
  unfold Pia.write
  split <;> (try split) <;> refine ⟨rfl, ?_⟩ <;> simp [Pia.reset] <;> rfl

theorem Pia.settle_held {low : Bool} {p : Pia} (h : p.held low = true) : p.settle low = p.reset := if_pos h

theorem Pia.settle_free {low : Bool} {p : Pia} (h : p.held low = false) : p.settle low = p :=
  if_neg (by simp [h])

/-- Settling is all that a low Reset pin asks for (R343). -/
theorem Pia.heldClear_settle (low : Bool) (p : Pia) : (p.settle low).heldClear low = true := by
  unfold Pia.settle
  split
  · simp [Pia.heldClear, Pia.cleared, Pia.reset, PiaSide.reset]
  · rename_i h
    unfold Pia.held at h
    simp [Pia.heldClear, h]

theorem Pia.ok_settle {p : Pia} (low : Bool) (h : p.ok = true) : (p.settle low).ok = true := by
  unfold Pia.settle
  split
  · exact Pia.ok_reset p
  · exact h

/-! ### The ACIA -/

theorem Acia.receiverHeld_iff (p : Acia) :
    p.receiverHeld = true ↔ (p.dcd = true → p.ovrn = false ∧ p.ovrnPending = false ∧ p.ovrnInt = false) := by
  unfold Acia.receiverHeld
  cases p.dcd <;> simp [and_assoc]

theorem Acia.ok_iff (p : Acia) :
    p.ok = true ↔ (p.ovrnArmed = true → p.ovrnInt = true) ∧ (p.dcdArmed = true → p.dcdLatch = true) ∧
      (p.dcd = true → p.ovrn = false ∧ p.ovrnPending = false ∧ p.ovrnInt = false) := by
  rw [← Acia.receiverHeld_iff]
  unfold Acia.ok
  cases p.ovrnArmed <;> cases p.dcdArmed <;> simp [and_assoc]

theorem Acia.ok_of_eq {p q : Acia} (h : p.ok = true) (h1 : q.ovrnArmed = p.ovrnArmed) (h2 : q.ovrnInt = p.ovrnInt)
    (h3 : q.dcdArmed = p.dcdArmed) (h4 : q.dcdLatch = p.dcdLatch) (h5 : q.dcd = p.dcd) (h6 : q.ovrn = p.ovrn)
    (h7 : q.ovrnPending = p.ovrnPending) : q.ok = true := by
  rw [Acia.ok_iff] at h ⊢
  rw [h1, h2, h3, h4, h5, h6, h7]
  exact h

theorem Acia.ok_readData {p : Acia} (h : p.ok = true) : p.readData.2.ok = true := by
  have h3 := ((Acia.ok_iff p).1 h).2.2
  rw [Acia.ok_iff]
  unfold Acia.readData Acia.clearArmed
  dsimp only
  split
  · rename_i ho
    refine ⟨fun x => absurd x (by simp), fun x => absurd x (by simp), fun d => ?_⟩
    exact absurd ho (by simp [(h3 d).2.1])
  · rename_i ho
    refine ⟨fun x => absurd x (by simp), fun x => absurd x (by simp), fun d => ⟨rfl, by simpa using ho, ?_⟩⟩
    simp [(h3 d).2.2]

theorem Acia.ok_readStatus {p : Acia} (free : Byte) (h : p.ok = true) : (p.readStatus free).2.ok = true := by
  have h' := (Acia.ok_iff p).1 h
  unfold Acia.readStatus
  split
  · exact h
  · rw [Acia.ok_iff]
    exact ⟨fun x => (Bool.or_eq_true_iff.1 x).elim h'.1 id, fun x => (Bool.or_eq_true_iff.1 x).elim h'.2.1 id, h'.2.2⟩

theorem Acia.ok_read {p : Acia} (free : Byte) (off : Nat) (h : p.ok = true) : (p.read free off).2.ok = true := by
  unfold Acia.read
  split
  · exact Acia.ok_readStatus free h
  · exact Acia.ok_readData h

theorem Acia.ok_write {p : Acia} (off : Nat) (v : Byte) (h : p.ok = true) : (p.write off v).ok = true := by
  unfold Acia.write
  split
  · unfold Acia.writeControl
    split
    · exact (Acia.ok_iff _).2 ⟨fun x => x, fun x => x, fun _ => ⟨rfl, rfl, rfl⟩⟩
    · exact Acia.ok_of_eq h rfl rfl rfl rfl rfl rfl rfl
  · exact Acia.ok_of_eq h rfl rfl rfl rfl rfl rfl rfl

theorem Acia.ok_receive {p : Acia} (v : Byte) (fe pe : Bool) (h : p.ok = true) : (p.receive v fe pe).ok = true := by
  unfold Acia.receive
  split
  · exact h
  · rename_i hd
    have hd' : p.dcd = false := by
      simp only [Bool.or_eq_true, not_or, Bool.not_eq_true] at hd
      exact hd.2
    simp only []
    split
    · exact (Acia.ok_iff _).2 ⟨fun _ => rfl, ((Acia.ok_iff p).1 h).2.1, fun d => absurd d (by simp [hd'])⟩
    · exact Acia.ok_of_eq h rfl rfl rfl rfl rfl rfl rfl

theorem Acia.ok_take {p : Acia} (h : p.ok = true) : p.take.ok = true := by
  unfold Acia.take
  split
  · exact Acia.ok_of_eq h rfl rfl rfl rfl rfl rfl rfl
  · exact h

theorem Acia.ok_sent {p : Acia} (h : p.ok = true) : p.sent.ok = true :=
  Acia.ok_take (Acia.ok_of_eq h rfl rfl rfl rfl rfl rfl rfl)

theorem Acia.ok_setCts {p : Acia} (l : Bool) (h : p.ok = true) : (p.setCts l).ok = true :=
  Acia.ok_of_eq h rfl rfl rfl rfl rfl rfl rfl

theorem Acia.ok_setDcd {p : Acia} (free l : Bool) (h : p.ok = true) : (p.setDcd free l).ok = true := by
  have h' := (Acia.ok_iff p).1 h
  unfold Acia.setDcd
  split
  · exact h
  · split
    · exact (Acia.ok_iff _).2 ⟨fun x => x, fun _ => rfl, fun _ => ⟨rfl, rfl, rfl⟩⟩
    · exact (Acia.ok_iff _).2 ⟨h'.1, h'.2.1, fun x => absurd x (by simp)⟩

end Sys2Proof.Machine
end

