-- ==== Sys2Proof/Laws/Memory.lean ====
section
/-! SUPPORT. Laws of memory: what reads after writes give, and the canonical form. -/

namespace Sys2Proof.Machine

@[simp] theorem Memory.read_nil (a : Nat) : Memory.read [] a = Config.unlisted := rfl

theorem Memory.read_cons (p : Nat × Byte) (rest : Memory) (a : Nat) :
    Memory.read (p :: rest) a = if p.1 = a then p.2 else Memory.read rest a := rfl

theorem Memory.wfFrom_cons (lo : Nat) (p : Nat × Byte) (rest : Memory) :
    Memory.wfFrom lo (p :: rest) = true ↔
      lo ≤ p.1 ∧ p.1 < 65536 ∧ p.2 ≠ Config.unlisted ∧ Memory.wfFrom (p.1 + 1) rest = true := by
  simp [Memory.wfFrom, and_assoc]

theorem Memory.wfFrom_mono {lo lo' : Nat} (h : lo' ≤ lo) {m : Memory} (hm : Memory.wfFrom lo m = true) :
    Memory.wfFrom lo' m = true := by
  cases m with
  | nil => rfl
  | cons p rest =>
    rw [Memory.wfFrom_cons] at hm ⊢
    exact ⟨h.trans hm.1, hm.2⟩

/-- Nothing is listed below the bound of a canonical list. -/
theorem Memory.read_below {lo : Nat} {m : Memory} (hm : Memory.wfFrom lo m = true) {a : Nat} (ha : a < lo) :
    m.read a = Config.unlisted := by
  induction m generalizing lo with
  | nil => rfl
  | cons p rest ih =>
    rw [Memory.wfFrom_cons] at hm
    rw [Memory.read_cons, if_neg (by omega)]
    exact ih hm.2.2.2 (by omega)

/-- A write leaves every other address as it was. -/
theorem Memory.read_write_other (m : Memory) {a b : Nat} (v : Byte) (h : b ≠ a) : (m.write a v).read b = m.read b := by
  induction m with
  | nil =>
    unfold Memory.write
    split <;> simp [Memory.read, h.symm]
  | cons p rest ih =>
    unfold Memory.write
    split
    · split
      · rfl
      · rw [Memory.read_cons, if_neg h.symm]
    · split
      · rename_i hp
        have hpb : p.1 ≠ b := by omega
        split
        · rw [Memory.read_cons, if_neg hpb]
        · rw [Memory.read_cons, if_neg h.symm, Memory.read_cons, if_neg hpb]
      · rw [Memory.read_cons, Memory.read_cons, ih]

/-- In canonical memory a read after a write to the same address gives the byte written. -/
theorem Memory.read_write_same_from {lo : Nat} {m : Memory} (hm : Memory.wfFrom lo m = true) (a : Nat) (v : Byte) :
    (m.write a v).read a = v := by
  induction m generalizing lo with
  | nil =>
    unfold Memory.write
    split
    · rename_i hv
      rw [hv, Memory.read_nil]
    · simp [Memory.read]
  | cons p rest ih =>
    rw [Memory.wfFrom_cons] at hm
    unfold Memory.write
    split
    · rename_i hlt
      split
      · rename_i hv
        rw [Memory.read_cons, if_neg (by omega), hv]
        exact Memory.read_below hm.2.2.2 (by omega)
      · rw [Memory.read_cons, if_pos rfl]
    · split
      · rename_i heq
        split
        · rename_i hv
          rw [hv]
          exact Memory.read_below hm.2.2.2 (by omega)
        · rw [Memory.read_cons, if_pos rfl]
      · rename_i hne
        rw [Memory.read_cons, if_neg (Ne.symm hne)]
        exact ih hm.2.2.2

theorem Memory.read_write_same {m : Memory} (hm : m.wf = true) (a : Nat) (v : Byte) : (m.write a v).read a = v :=
  Memory.read_write_same_from hm a v

/-- What any address reads as after a write to canonical memory. -/
theorem Memory.read_write {m : Memory} (hm : m.wf = true) (a b : Nat) (v : Byte) :
    (m.write a v).read b = if b = a then v else m.read b := by
  split
  · rename_i h
    rw [h, Memory.read_write_same hm]
  · rename_i h
    exact Memory.read_write_other m v h

theorem Memory.wfFrom_write {lo : Nat} {m : Memory} (hm : Memory.wfFrom lo m = true) {a : Nat} (hlo : lo ≤ a)
    (ha : a < 65536) (v : Byte) : Memory.wfFrom lo (m.write a v) = true := by
  induction m generalizing lo with
  | nil =>
    unfold Memory.write
    split
    · rfl
    · rename_i hv
      rw [Memory.wfFrom_cons]
      exact ⟨hlo, ha, hv, rfl⟩
  | cons p rest ih =>
    have hm' := hm
    rw [Memory.wfFrom_cons] at hm
    unfold Memory.write
    split
    · rename_i hlt
      split
      · exact hm'
      · rename_i hv
        rw [Memory.wfFrom_cons]
        refine ⟨hlo, ha, hv, ?_⟩
        rw [Memory.wfFrom_cons]
        exact ⟨hlt, hm.2⟩
    · split
      · rename_i heq
        split
        · exact Memory.wfFrom_mono (by omega) hm.2.2.2
        · rename_i hv
          rw [Memory.wfFrom_cons]
          refine ⟨hlo, ha, hv, ?_⟩
          show Memory.wfFrom (a + 1) rest = true
          rw [heq]
          exact hm.2.2.2
      · rename_i h1 h2
        rw [Memory.wfFrom_cons]
        exact ⟨hm.1, hm.2.1, hm.2.2.1, ih hm.2.2.2 (by omega)⟩

/-- Every write inside the address space keeps the canonical form. -/
theorem Memory.wf_write {m : Memory} (hm : m.wf = true) {a : Nat} (ha : a < 65536) (v : Byte) : (m.write a v).wf = true :=
  Memory.wfFrom_write hm (Nat.zero_le a) ha v

/-- The memory of the reset state, with nothing listed, is in the canonical form. -/
theorem Memory.wf_nil : Memory.wf [] = true := rfl

end Sys2Proof.Machine
end

