-- ==== Sys2Proof/Laws/Board.lean ====
section
/-! SUPPORT. Laws of the board: what no machine cycle and no event can do (`Board.Keeps`), what a machine cycle of a
quiet board does, and how long the trace grows. -/

namespace Sys2Proof.Machine

/-! ### Homes: where the map keeps the byte of an address -/

theorem MemMap.home_lt (m : MemMap) {a : Nat} (h : a < 65536) : m.home a < 65536 := by
  unfold MemMap.home
  split
  · exact Nat.mod_lt _ (by omega)
  · exact h

/-- Outside the mirrors every address is its own home. -/
theorem MemMap.home_eq {m : MemMap} {a : Nat} (h : ∀ t off, m.findAt a ≠ some (.mirror t, off)) : m.home a = a := by
  unfold MemMap.home
  split
  · rename_i e
    exact absurd e (h _ _)
  · rfl

/-- What is at an address depends on its home alone. -/
theorem MemMap.regionAt_congr {m : MemMap} {a c : Nat} (h : m.home a = m.home c) : m.regionAt a = m.regionAt c := by
  unfold MemMap.regionAt
  rw [h]

theorem MemMap.isRam_congr {m : MemMap} {a c : Nat} (h : m.home a = m.home c) : m.isRam a = m.isRam c := by
  unfold MemMap.isRam
  rw [MemMap.regionAt_congr h]

@[simp] theorem Board.setByte_map (a : Nat) (v : Byte) (b : Board) : (b.setByte a v).map = b.map := rfl
@[simp] theorem Board.setByte_mem (a : Nat) (v : Byte) (b : Board) :
    (b.setByte a v).mem = b.mem.write (b.map.home a) v := rfl

/-- A byte stored reads back at every address with the same home, and no other address changes. -/
theorem Board.byteAt_setByte {b : Board} (h : b.mem.wf = true) (a c : Nat) (v : Byte) :
    (b.setByte a v).byteAt c = if b.map.home c = b.map.home a then v else b.byteAt c :=
  Memory.read_write h _ _ v

/-- Placing an image keeps the canonical form. -/
theorem Board.wf_place {b : Board} (h : b.mem.wf = true) (a : Addr) (bs : List Byte) : (b.place a bs).mem.wf = true := by
  induction bs generalizing b a with
  | nil => exact h
  | cons v rest ih => exact ih (Memory.wf_write h (MemMap.home_lt _ a.isLt) v) (a + 1)

/-! ### Keeps: the map, the bytes outside RAM, the canonical form, the legal device states, the PIAs held in reset -/

/-- What every operation of the board preserves, the effect of an event before the PIAs are held in reset included. -/
structure Board.Preserves (b b' : Board) : Prop where
  map : b'.map = b.map
  pias : b'.pias.length = b.pias.length
  acias : b'.acias.length = b.acias.length
  wf : b.mem.wf = true → b'.mem.wf = true
  rom : ∀ a, b.map.isRam a = false → b'.byteAt a = b.byteAt a
  piaOk : b.pias.all Pia.ok = true → b'.pias.all Pia.ok = true
  aciaOk : b.acias.all Acia.ok = true → b'.acias.all Acia.ok = true

/-- What every operation of the board keeps, whatever the environment does. -/
structure Board.Keeps (b b' : Board) : Prop extends Board.Preserves b b' where
  held : b.pias.all (Pia.heldClear b.lines.resetLow) = true → b'.pias.all (Pia.heldClear b'.lines.resetLow) = true

theorem Board.Preserves.refl (b : Board) : b.Preserves b := ⟨rfl, rfl, rfl, id, fun _ _ => rfl, id, id⟩

theorem Board.Keeps.refl (b : Board) : b.Keeps b := ⟨Board.Preserves.refl b, id⟩

theorem Board.Preserves.trans {b c d : Board} (h : b.Preserves c) (k : c.Preserves d) : b.Preserves d :=
  ⟨k.map.trans h.map, k.pias.trans h.pias, k.acias.trans h.acias, fun w => k.wf (h.wf w),
    fun a ha => (k.rom a (by rw [h.map]; exact ha)).trans (h.rom a ha), fun w => k.piaOk (h.piaOk w),
    fun w => k.aciaOk (h.aciaOk w)⟩

theorem Board.Keeps.trans {b c d : Board} (h : b.Keeps c) (k : c.Keeps d) : b.Keeps d :=
  ⟨h.toPreserves.trans k.toPreserves, fun w => k.held (h.held w)⟩

/-- A change outside map, memory and devices. -/
theorem Board.Preserves.of_eq {b b' : Board} (h1 : b'.map = b.map) (h2 : b'.mem = b.mem) (h3 : b'.pias = b.pias)
    (h4 : b'.acias = b.acias) : b.Preserves b' := by
  constructor <;> simp [h1, h2, h3, h4, Board.byteAt]

/-- A change outside map, memory, devices and lines. -/
theorem Board.Keeps.of_eq {b b' : Board} (h1 : b'.map = b.map) (h2 : b'.mem = b.mem) (h3 : b'.pias = b.pias)
    (h4 : b'.acias = b.acias) (h5 : b'.lines = b.lines) : b.Keeps b' :=
  ⟨Board.Preserves.of_eq h1 h2 h3 h4, by rw [h3, h5]; exact id⟩

/-- A change of the PIAs alone that leaves each of them settled. -/
theorem Board.Keeps.of_pias {b : Board} {l : List Pia} (h1 : l.length = b.pias.length)
    (h2 : b.pias.all Pia.ok = true → l.all Pia.ok = true)
    (h3 : b.pias.all (Pia.heldClear b.lines.resetLow) = true → l.all (Pia.heldClear b.lines.resetLow) = true) :
    b.Keeps { b with pias := l } :=
  ⟨⟨rfl, h1, rfl, id, fun _ _ => rfl, h2, id⟩, h3⟩

/-- What is kept includes the invariant. -/
theorem Board.Keeps.inv {b b' : Board} (h : b.Keeps b') (i : b.Inv) : b'.Inv := by
  obtain ⟨i1, i2, i3, i4, i5, i6⟩ := i
  refine ⟨h.wf i1, by rw [h.map]; exact i2, ?_, h.piaOk i4, h.aciaOk i5, h.held i6⟩
  unfold Board.devicesExist at i3 ⊢
  rw [h.map, h.pias, h.acias]
  exact i3

theorem Board.keeps_sample (b : Board) : b.Keeps b.sample := Board.Keeps.of_eq rfl rfl rfl rfl rfl

theorem Board.keeps_bump (b : Board) : b.Keeps b.bump := Board.Keeps.of_eq rfl rfl rfl rfl rfl

theorem Board.keeps_record (c : BusCycle) (b : Board) : b.Keeps (b.record c) := Board.Keeps.of_eq rfl rfl rfl rfl rfl

theorem all_set {α : Type} {P : α → Bool} {l : List α} {n : Nat} {x : α} (h : l.all P = true) (hx : P x = true) :
    (l.set n x).all P = true := by
  rw [List.all_eq_true] at h ⊢
  intro y hy
  rcases List.mem_or_eq_of_mem_set hy with hy | rfl
  · exact h y hy
  · exact hx

theorem all_modify {α : Type} {P : α → Bool} {l : List α} {n : Nat} {f : α → α} (h : l.all P = true)
    (hf : ∀ x, P x = true → P (f x) = true) : (l.modify n f).all P = true := by
  rw [List.all_eq_true] at h ⊢
  intro y hy
  obtain ⟨k, hk, rfl⟩ := List.mem_iff_getElem.1 hy
  rw [List.getElem_modify]
  have hk' : k < l.length := by simpa using hk
  split
  · exact hf _ (h _ (List.getElem_mem hk'))
  · exact h _ (List.getElem_mem hk')

theorem all_getElem? {α : Type} {P : α → Bool} {l : List α} {n : Nat} {x : α} (h : l.all P = true) (hx : l[n]? = some x) :
    P x = true := List.all_eq_true.1 h x (List.mem_of_getElem? hx)

theorem Board.keeps_setPia {b : Board} {n : Nat} {p q : Pia} (hp : b.pias[n]? = some p)
    (hq : p.ok = true → q.ok = true) : b.Keeps (b.setPia n q) :=
  Board.Keeps.of_pias (by simp) (fun h => all_set h (Pia.ok_settle _ (hq (all_getElem? h hp))))
    (fun h => all_set h (Pia.heldClear_settle _ q))

theorem Board.keeps_setAcia {b : Board} {n : Nat} {p q : Acia} (hp : b.acias[n]? = some p)
    (hq : p.ok = true → q.ok = true) : b.Keeps { b with acias := b.acias.set n q } :=
  ⟨⟨rfl, rfl, by simp, id, fun _ _ => rfl, id, fun h => all_set h (hq (all_getElem? h hp))⟩, id⟩

theorem Board.keeps_accessRead (a : Addr) (b : Board) : b.Keeps (b.accessRead a).2 := by
  unfold Board.accessRead
  split
  · exact Board.Keeps.refl b
  · exact Board.Keeps.refl b
  · split
    · rename_i hp
      exact (Board.keeps_setPia hp (Pia.ok_read _)).trans (Board.keeps_sample _)
    · exact Board.keeps_bump b
  · split
    · rename_i hp
      exact ((Board.keeps_bump b).trans (Board.keeps_setAcia (b := b.bump) hp (Acia.ok_read _ _))).trans
        (Board.keeps_sample _)
    · exact Board.keeps_bump b
  · exact Board.keeps_bump b
  · exact Board.keeps_bump b

theorem MemMap.isRam_of_regionAt {m : MemMap} {a off : Nat} (h : m.regionAt a = some (.ram, off)) : m.isRam a = true := by
  simp [MemMap.isRam, h]

theorem Board.keeps_accessWrite (a : Addr) (v : Byte) (b : Board) : b.Keeps (b.accessWrite a v) := by
  unfold Board.accessWrite
  split
  · rename_i hr
    refine ⟨⟨rfl, rfl, rfl, fun h => Memory.wf_write h (MemMap.home_lt _ a.isLt) v, fun c hc => ?_, id, id⟩, id⟩
    refine Memory.read_write_other _ _ fun hca => ?_
    rw [MemMap.isRam_congr (m := b.map) hca, MemMap.isRam_of_regionAt hr] at hc
    exact absurd hc (by simp)
  · exact Board.Keeps.refl b
  · split
    · rename_i hp
      exact ((Board.keeps_bump b).trans (Board.keeps_setPia (b := b.bump) hp (Pia.ok_write _ _ _))).trans
        (Board.keeps_sample _)
    · exact Board.Keeps.refl b
  · split
    · rename_i hp
      exact (Board.keeps_setAcia hp (Acia.ok_write _ _)).trans (Board.keeps_sample _)
    · exact Board.Keeps.refl b
  · exact Board.Keeps.refl b
  · exact Board.Keeps.refl b

theorem Board.preserves_onPia (n : Nat) {f : Pia → Pia} (hf : ∀ p, p.ok = true → (f p).ok = true) (b : Board) :
    b.Preserves (b.onPia n f) :=
  ⟨rfl, by simp [Board.onPia], rfl, id, fun _ _ => rfl, fun h => all_modify h hf, id⟩

theorem Board.preserves_onAcia (n : Nat) {f : Acia → Acia} (hf : ∀ p, p.ok = true → (f p).ok = true) (b : Board) :
    b.Preserves (b.onAcia n f) :=
  ⟨rfl, rfl, by simp [Board.onAcia], id, fun _ _ => rfl, id, fun h => all_modify h hf⟩

/-- Holding the PIAs in reset settles all of them, so what it keeps needs less of what came before. -/
theorem Board.Preserves.resetPias {b c : Board} (h : b.Preserves c) : b.Keeps c.resetPias := by
  refine ⟨h.trans ⟨rfl, by simp [Board.resetPias], rfl, id, fun _ _ => rfl, fun w => ?_, id⟩, fun _ => ?_⟩
  · rw [List.all_eq_true] at w ⊢
    intro y hy
    obtain ⟨p, hp, rfl⟩ := List.mem_map.1 hy
    exact Pia.ok_settle _ (w p hp)
  · rw [List.all_eq_true]
    intro y hy
    obtain ⟨p, hp, rfl⟩ := List.mem_map.1 hy
    exact Pia.heldClear_settle _ p

theorem Board.preserves_apply (e : EnvEvent) (b : Board) : b.Preserves (b.apply e) := by
  cases e with
  | irq low => exact Board.Preserves.of_eq rfl rfl rfl rfl
  | nmi low => exact Board.Preserves.of_eq rfl rfl rfl rfl
  | halt low => exact Board.Preserves.of_eq rfl rfl rfl rfl
  | reset low => exact Board.Preserves.of_eq rfl rfl rfl rfl
  | masterRead a => exact (Board.keeps_accessRead a b).toPreserves
  | masterWrite a v => exact (Board.keeps_accessWrite a v b).toPreserves
  | clockLost => exact Board.Preserves.of_eq rfl rfl rfl rfl
  | piaPins n port x y =>
    exact Board.preserves_onPia n (fun p h => Pia.ok_onSide port (fun q hq => PiaSide.ok_setPins x y hq) h) b
  | piaC1 n port l =>
    exact Board.preserves_onPia n (fun p h => Pia.ok_onSide port (fun q hq => PiaSide.ok_setC1 l hq) h) b
  | piaC2 n port l =>
    exact Board.preserves_onPia n (fun p h => Pia.ok_onSide port (fun q hq => PiaSide.ok_setC2 l hq) h) b
  | piaReset n low => exact Board.preserves_onPia n (f := Pia.setReset low) (fun _ h => h) b
  | aciaReceive n v fe pe => exact Board.preserves_onAcia n (fun p h => Acia.ok_receive v fe pe h) b
  | aciaTake n => exact Board.preserves_onAcia n (fun p h => Acia.ok_take h) b
  | aciaSent n => exact Board.preserves_onAcia n (fun p h => Acia.ok_sent h) b
  | aciaCts n l => exact Board.preserves_onAcia n (fun p h => Acia.ok_setCts l h) b
  | aciaDcd n l =>
    exact (Board.keeps_bump b).toPreserves.trans (Board.preserves_onAcia n (fun p h => Acia.ok_setDcd _ l h) b.bump)

theorem Board.keeps_event (b : Board) (e : EnvEvent) : b.Keeps (b.event e) :=
  (Board.preserves_apply e b).resetPias.trans (Board.keeps_sample _)

theorem Board.keeps_events (es : List EnvEvent) (b : Board) : b.Keeps (es.foldl Board.event b) := by
  induction es generalizing b with
  | nil => exact Board.Keeps.refl b
  | cons e rest ih => exact (Board.keeps_event b e).trans (ih _)

theorem Board.keeps_batch (b : Board) : b.Keeps b.batch := by
  unfold Board.batch
  split
  · exact Board.Keeps.refl b
  · rename_i events rest _
    exact Board.Keeps.trans (c := { b with env := rest }) (Board.Keeps.of_eq rfl rfl rfl rfl rfl) (Board.keeps_events _ _)

theorem Board.keeps_resetTick (b : Board) : b.Keeps b.resetTick := by
  unfold Board.resetTick
  split
  · exact Board.Keeps.of_eq rfl rfl rfl rfl rfl
  · exact Board.Keeps.refl b

theorem Board.keeps_ePulse (sel : Option Nat) (b : Board) : b.Keeps (b.ePulse sel) := by
  refine Board.Keeps.of_pias (by simp) (fun h => ?_) (fun _ => ?_)
  · rw [List.all_eq_true] at h ⊢
    intro y hy
    obtain ⟨n, hn, rfl⟩ := List.mem_mapIdx.1 hy
    exact Pia.ok_settle _ (Pia.ok_ePulse _ (h _ (List.getElem_mem hn)))
  · rw [List.all_eq_true]
    intro y hy
    obtain ⟨n, hn, rfl⟩ := List.mem_mapIdx.1 hy
    exact Pia.heldClear_settle _ _

theorem Board.keeps_cycle (sel : Option Nat) (b : Board) : b.Keeps (b.cycle sel) :=
  ((Board.keeps_batch b).trans (Board.keeps_resetTick _)).trans (Board.keeps_ePulse _ _)

theorem Board.keeps_busRead (a : Addr) (b : Board) : b.Keeps (b.busRead a).2 := by
  refine (Board.keeps_cycle (b.map.piaAt a.toNat) b).trans ?_
  unfold Board.busRead
  dsimp only
  split
  · exact (Board.keeps_bump _).trans (Board.keeps_record _ _)
  · exact (Board.keeps_accessRead a _).trans (Board.keeps_record _ _)

theorem Board.keeps_busWrite (a : Addr) (v : Byte) (b : Board) : b.Keeps (b.busWrite a v) := by
  refine (Board.keeps_cycle (b.map.piaAt a.toNat) b).trans ?_
  unfold Board.busWrite
  dsimp only
  split
  · exact Board.keeps_record _ _
  · exact (Board.keeps_accessWrite a v _).trans (Board.keeps_record _ _)

theorem Board.keeps_idle (c : BusCycle) (b : Board) : b.Keeps (b.idle c) := (Board.keeps_cycle none b).trans (Board.keeps_record _ _)

/-! ### A machine cycle of a quiet board -/

/-- What a machine cycle of a quiet board begins with: nothing but the E pulse. -/
theorem Board.Quiet.cycle_eq {b : Board} (h : b.Quiet) (sel : Option Nat) : b.cycle sel = b.ePulse sel := by
  obtain ⟨h1, h2, h3⟩ := h
  have hb : b.batch = b := by
    unfold Board.batch
    rw [h1]
  have ht : b.resetTick = b := by
    unfold Board.resetTick
    rw [h2]
    rfl
  simp only [Board.cycle, hb, ht, h3]
  rfl

/-- What an access leaves alone on every board. -/
theorem Board.accessRead_same (a : Addr) (b : Board) :
    (b.accessRead a).2.mem = b.mem ∧ (b.accessRead a).2.map = b.map ∧ (b.accessRead a).2.lines = b.lines ∧
      (b.accessRead a).2.env = b.env ∧ (b.accessRead a).2.cut = b.cut ∧ (b.accessRead a).2.trace = b.trace := by
  unfold Board.accessRead
  split
  · exact ⟨rfl, rfl, rfl, rfl, rfl, rfl⟩
  · exact ⟨rfl, rfl, rfl, rfl, rfl, rfl⟩
  · split <;> exact ⟨rfl, rfl, rfl, rfl, rfl, rfl⟩
  · split <;> exact ⟨rfl, rfl, rfl, rfl, rfl, rfl⟩
  · exact ⟨rfl, rfl, rfl, rfl, rfl, rfl⟩
  · exact ⟨rfl, rfl, rfl, rfl, rfl, rfl⟩

/-- What a write access does to memory and leaves alone on every board. -/
theorem Board.accessWrite_same (a : Addr) (v : Byte) (b : Board) :
    (b.accessWrite a v).mem = (if b.map.isRam a.toNat = true then b.mem.write (b.map.home a.toNat) v else b.mem) ∧
      (b.accessWrite a v).map = b.map ∧ (b.accessWrite a v).lines = b.lines ∧ (b.accessWrite a v).env = b.env ∧
      (b.accessWrite a v).cut = b.cut ∧ (b.accessWrite a v).trace = b.trace := by
  unfold Board.accessWrite MemMap.isRam
  split <;> rename_i hr <;> rw [hr] <;> dsimp only
  · exact ⟨(if_pos rfl).symm, rfl, rfl, rfl, rfl, rfl⟩
  · exact ⟨(if_neg (by simp)).symm, rfl, rfl, rfl, rfl, rfl⟩
  · split <;> exact ⟨(if_neg (by simp)).symm, rfl, rfl, rfl, rfl, rfl⟩
  · split <;> exact ⟨(if_neg (by simp)).symm, rfl, rfl, rfl, rfl, rfl⟩
  · exact ⟨(if_neg (by simp)).symm, rfl, rfl, rfl, rfl, rfl⟩
  · exact ⟨(if_neg (by simp)).symm, rfl, rfl, rfl, rfl, rfl⟩

/-- A read cycle of a quiet board changes neither memory, map nor lines and leaves the board quiet. -/
theorem Board.Quiet.busRead_same {b : Board} (h : b.Quiet) (a : Addr) :
    (b.busRead a).2.mem = b.mem ∧ (b.busRead a).2.map = b.map ∧ (b.busRead a).2.lines = b.lines ∧
      (b.busRead a).2.Quiet ∧ (b.busRead a).2.trace = b.trace ++ [.read a (b.busRead a).1] := by
  have hc : (b.ePulse (b.map.piaAt a.toNat)).cut = false := h.2.2
  obtain ⟨e1, e2, e3, e4, e5, e6⟩ := Board.accessRead_same a (b.ePulse (b.map.piaAt a.toNat))
  unfold Board.busRead
  rw [h.cycle_eq]
  simp only [hc, Bool.false_eq_true, if_false]
  refine ⟨e1, e2, e3, ⟨e4.trans h.1, ?_, e5.trans h.2.2⟩, ?_⟩
  · show (Board.accessRead a (b.ePulse (b.map.piaAt a.toNat))).2.lines.resetLow = false
    rw [e3]
    exact h.2.1
  · show (Board.accessRead a (b.ePulse (b.map.piaAt a.toNat))).2.trace ++ _ = _
    rw [e6]
    rfl

/-- A read access to RAM or ROM returns the byte that stands there and changes nothing (R68). -/
theorem Board.accessRead_memory {b : Board} {a : Addr} (ha : b.map.isMemory a.toNat = true) :
    b.accessRead a = (b.byteAt a.toNat, b) := by
  unfold MemMap.isMemory at ha
  unfold Board.accessRead
  split at ha
  · rename_i hr
    rw [hr]
  · rename_i hr
    rw [hr]
  · exact absurd ha (by simp)

/-- A read cycle of a quiet board on RAM or ROM returns the byte that stands there, and does no more than an E pulse. -/
theorem Board.Quiet.busRead_memory {b : Board} (h : b.Quiet) {a : Addr} (ha : b.map.isMemory a.toNat = true) :
    b.busRead a =
      (b.byteAt a.toNat, (b.ePulse (b.map.piaAt a.toNat)).record (.read a (b.byteAt a.toNat))) := by
  have hc : (b.ePulse (b.map.piaAt a.toNat)).cut = false := h.2.2
  unfold Board.busRead
  rw [h.cycle_eq]
  simp only [hc, Bool.false_eq_true, if_false]
  rw [Board.accessRead_memory (b := b.ePulse (b.map.piaAt a.toNat)) ha]
  rfl

theorem Board.Quiet.busRead_value {b : Board} (h : b.Quiet) {a : Addr} (ha : b.map.isMemory a.toNat = true) :
    (b.busRead a).1 = b.byteAt a.toNat := by rw [h.busRead_memory ha]

/-- A write cycle of a quiet board stores the byte if the address is RAM, and nothing otherwise (R68). -/
theorem Board.Quiet.busWrite_same {b : Board} (h : b.Quiet) (a : Addr) (v : Byte) :
    (b.busWrite a v).mem = (if b.map.isRam a.toNat = true then b.mem.write (b.map.home a.toNat) v else b.mem) ∧
      (b.busWrite a v).map = b.map ∧ (b.busWrite a v).lines = b.lines ∧ (b.busWrite a v).Quiet ∧
      (b.busWrite a v).trace = b.trace ++ [.write a v] := by
  have hc : (b.ePulse (b.map.piaAt a.toNat)).cut = false := h.2.2
  obtain ⟨e1, e2, e3, e4, e5, e6⟩ := Board.accessWrite_same a v (b.ePulse (b.map.piaAt a.toNat))
  unfold Board.busWrite
  rw [h.cycle_eq]
  simp only [hc, Bool.false_eq_true, if_false]
  refine ⟨e1, e2, e3, ⟨e4.trans h.1, ?_, e5.trans h.2.2⟩, ?_⟩
  · show (Board.accessWrite a v (b.ePulse (b.map.piaAt a.toNat))).lines.resetLow = false
    rw [e3]
    exact h.2.1
  · show (Board.accessWrite a v (b.ePulse (b.map.piaAt a.toNat))).trace ++ _ = _
    rw [e6]
    rfl

/-- A VMA = 0 cycle of a quiet board. -/
theorem Board.Quiet.idle_same {b : Board} (h : b.Quiet) (c : BusCycle) :
    (b.idle c).mem = b.mem ∧ (b.idle c).map = b.map ∧ (b.idle c).lines = b.lines ∧ (b.idle c).Quiet ∧
      (b.idle c).trace = b.trace ++ [c] := by
  unfold Board.idle
  rw [h.cycle_eq]
  exact ⟨rfl, rfl, rfl, h, rfl⟩

/-! ### The trace grows by one entry per machine cycle, on every board -/

theorem Board.apply_trace (e : EnvEvent) (b : Board) : (b.apply e).trace = b.trace := by
  cases e with
  | masterRead a => exact (Board.accessRead_same a b).2.2.2.2.2
  | masterWrite a v => exact (Board.accessWrite_same a v b).2.2.2.2.2
  | _ => rfl

theorem Board.event_trace (b : Board) (e : EnvEvent) : (b.event e).trace = b.trace := Board.apply_trace e b

theorem Board.events_trace (es : List EnvEvent) (b : Board) : (es.foldl Board.event b).trace = b.trace := by
  induction es generalizing b with
  | nil => rfl
  | cons e rest ih => exact (ih _).trans (Board.event_trace b e)

theorem Board.cycle_trace (sel : Option Nat) (b : Board) : (b.cycle sel).trace = b.trace := by
  have hb : b.batch.trace = b.trace := by
    unfold Board.batch
    split
    · rfl
    · exact Board.events_trace _ _
  have ht : b.batch.resetTick.trace = b.batch.trace := by
    unfold Board.resetTick
    split <;> rfl
  exact ht.trans hb

theorem Board.busRead_trace (a : Addr) (b : Board) : (b.busRead a).2.trace.length = b.trace.length + 1 := by
  unfold Board.busRead
  dsimp only
  split
  · simp [Board.record, Board.bump, Board.cycle_trace]
  · simp [Board.record, (Board.accessRead_same a _).2.2.2.2.2, Board.cycle_trace]

theorem Board.busWrite_trace (a : Addr) (v : Byte) (b : Board) :
    (b.busWrite a v).trace.length = b.trace.length + 1 := by
  unfold Board.busWrite
  dsimp only
  split
  · simp [Board.record, Board.cycle_trace]
  · simp [Board.record, (Board.accessWrite_same a v _).2.2.2.2.2, Board.cycle_trace]

theorem Board.idle_trace (c : BusCycle) (b : Board) : (b.idle c).trace.length = b.trace.length + 1 := by
  simp [Board.idle, Board.record, Board.cycle_trace]

end Sys2Proof.Machine
end

