-- ==== Sys2Proof/Laws/Flags.lean ====
section
/-! SUPPORT. One lemma for each result and flag computation: it meets the relation of the instruction rule. -/

namespace Sys2Proof.Machine

theorem bitNat_le (c : Bool) : bitNat c ≤ 1 := by cases c <;> decide

/-- Bit 7 of a byte is its sign. -/
theorem msb_byte (v : Byte) : v.msb = v.getLsbD 7 := BitVec.msb_eq_getLsbD_last v

theorem bit7_iff (v : Byte) : v.getLsbD 7 = true ↔ 128 ≤ v.toNat := by
  rw [← msb_byte, BitVec.msb_eq_decide]
  simp

/-- The sign bit as a number comparison. -/
theorem bit7_eq (v : Byte) : v.getLsbD 7 = decide (128 ≤ v.toNat) := by
  rw [Bool.eq_iff_iff, bit7_iff]
  simp

/-- Two's complement reading of a byte. -/
theorem toInt_byte (v : Byte) : v.toInt = if 128 ≤ v.toNat then (v.toNat : Int) - 256 else v.toNat := by
  rw [BitVec.toInt_eq_toNat_cond]
  split <;> split <;> omega

theorem byte_eq_zero (v : Byte) : v = 0 ↔ v.toNat = 0 := by
  rw [← BitVec.toNat_inj]
  rfl

theorem add_isSum (a m : Byte) (c : Bool) (f : Flags) : IsSum a m c f (addResult a m c) (addFlags a m c f) := by
  have hr : (addResult a m c).toNat = (a.toNat + m.toNat + bitNat c) % 256 := by simp [addResult]
  have hc := bitNat_le c
  have ha := a.isLt
  have hm := m.isLt
  refine ⟨hr, by simp [addFlags], msb_byte _, by simp [addFlags], ?_, ?_, by simp [addFlags], rfl⟩
  · simp [addFlags, msb_byte]
  · have : (addFlags a m c f).v = (a.getLsbD 7 == m.getLsbD 7 && (addResult a m c).getLsbD 7 != a.getLsbD 7) := by
      simp [addFlags, msb_byte]
    rw [this, bit7_eq, bit7_eq, bit7_eq, hr, toInt_byte, toInt_byte]
    simp only [Bool.and_eq_true, beq_iff_eq, bne_iff_ne, ne_eq, decide_eq_decide]
    split <;> split <;> omega

theorem sub_isDifference (a m : Byte) (c : Bool) (f : Flags) :
    IsDifference a m c f (subResult a m c) (subFlags a m c f) := by
  have hc := bitNat_le c
  have ha := a.isLt
  have hm := m.isLt
  have hr : ((subResult a m c).toNat : Int) = ((a.toNat : Int) - m.toNat - bitNat c) % 256 := by
    simp only [subResult, BitVec.toNat_ofInt]
    omega
  refine ⟨hr, msb_byte _, by simp [subFlags], ?_, ?_, by simp [subFlags], rfl, rfl⟩
  · simp [subFlags, msb_byte]
  · have : (subFlags a m c f).v = (a.getLsbD 7 != m.getLsbD 7 && (subResult a m c).getLsbD 7 != a.getLsbD 7) := by
      simp [subFlags, msb_byte]
    rw [this, bit7_eq, bit7_eq, bit7_eq, toInt_byte, toInt_byte]
    simp only [Bool.and_eq_true, bne_iff_ne, ne_eq, decide_eq_decide]
    split <;> split <;> omega

/-- Two differences of the same operands are the same result with the same flags. -/
theorem IsDifference.unique {a m : Byte} {c : Bool} {f f' f'' : Flags} {r r' : Byte} (h : IsDifference a m c f r f')
    (k : IsDifference a m c f r' f'') : r = r' ∧ f' = f'' := by
  obtain ⟨h1, h2, h3, h4, -, h6, h7, h8⟩ := h
  obtain ⟨k1, k2, k3, k4, -, k6, k7, k8⟩ := k
  have e : r = r' := by
    rw [← BitVec.toNat_inj]
    omega
  subst e
  refine ⟨rfl, ?_⟩
  have z : f'.z = f''.z := by rw [Bool.eq_iff_iff, h3, k3]
  have v : f'.v = f''.v := by rw [Bool.eq_iff_iff, h4, k4]
  have d : f'.c = f''.c := by rw [Bool.eq_iff_iff, h6, k6]
  cases f'
  cases f''
  simp_all

theorem sub_isCompared (a m : Byte) (f : Flags) : IsCompared a m f (subFlags a m false f) := by
  have h := sub_isDifference a m false f
  have ha := a.isLt
  have hm := m.isLt
  refine ⟨⟨_, h⟩, ?_, ?_, ?_⟩
  · obtain ⟨h1, -, h3, -⟩ := h
    rw [h3, byte_eq_zero, ← BitVec.toNat_inj]
    simp only [bitNat, Bool.false_eq_true, if_false] at h1
    omega
  · simpa [bitNat] using h.2.2.2.2.2.1
  · obtain ⟨h1, h2, -, h4, -⟩ := h
    have hv : (subFlags a m false f).v = (a.getLsbD 7 != m.getLsbD 7 && (subResult a m false).getLsbD 7 != a.getLsbD 7) := by
      simp [subFlags, msb_byte]
    simp only [bitNat, Bool.false_eq_true, if_false] at h1
    rw [h2, hv, bit7_eq, bit7_eq, bit7_eq, toInt_byte, toInt_byte]
    by_cases x : 128 ≤ a.toNat <;> by_cases y : 128 ≤ m.toNat <;>
      by_cases z : 128 ≤ (subResult a m false).toNat <;> simp [x, y, z] <;> omega

theorem logic_isMoved (res : Byte) (f : Flags) : IsMoved res f (logicFlags res f) :=
  ⟨msb_byte res, by simp [logicFlags], rfl, rfl, rfl, rfl⟩

theorem flags16_isMoved16 (w : Word) (f : Flags) : IsMoved16 w f (flags16 w f) :=
  ⟨BitVec.msb_eq_getLsbD_last w, by simp [flags16], rfl, rfl, rfl, rfl⟩

theorem shift_isShifted (res : Byte) (out : Bool) (f : Flags) : IsShifted res out f (shiftFlags res out f) := by
  refine ⟨msb_byte res, by simp [shiftFlags], rfl, ?_, rfl, rfl⟩
  simp [shiftFlags]

theorem and_isAnd (a m : Byte) (f : Flags) : IsAnd a m f (a &&& m) (logicFlags (a &&& m) f) :=
  ⟨fun k _ => by simp, logic_isMoved _ f⟩

theorem or_isOr (a m : Byte) (f : Flags) : IsOr a m f (a ||| m) (logicFlags (a ||| m) f) :=
  ⟨fun k _ => by simp, logic_isMoved _ f⟩

theorem xor_isExclusiveOr (a m : Byte) (f : Flags) : IsExclusiveOr a m f (a ^^^ m) (logicFlags (a ^^^ m) f) :=
  ⟨fun k _ => by simp, logic_isMoved _ f⟩

theorem negate_isNegated (v : Byte) (f : Flags) : IsNegated v f (negate v f).1 (negate v f).2 := by
  have h : ∀ v : Byte, ((0 - v : Byte).toNat : Int) = (-(v.toNat : Int)) % 256 ∧ (0 - v : Byte) = subResult 0 v false ∧
      (decide ((0 - v : Byte) = 0x80) = ((0 : Byte).msb != v.msb && (subResult 0 v false).msb != (0 : Byte).msb)) ∧
      (decide ((0 - v : Byte) ≠ 0) = decide ((0 : Byte).toNat < v.toNat + bitNat false)) := by decide
  obtain ⟨h1, h2, h3, h4⟩ := h v
  refine ⟨h1, msb_byte _, by simp [negate], by simp [negate], by simp [negate], rfl, rfl, ?_⟩
  have e : (negate v f).2 = subFlags 0 v false f := by
    unfold negate subFlags
    dsimp only
    rw [← h2, ← h4, h3, ← h2]
  rw [e, show (negate v f).1 = subResult 0 v false from h2]
  exact sub_isDifference 0 v false f

theorem increment_isIncremented (v : Byte) (f : Flags) : IsIncremented v f (increment v f).1 (increment v f).2 :=
  ⟨by simp [increment], msb_byte _, by simp [increment], by simp [increment], rfl, rfl, rfl⟩

theorem decrement_isDecremented (v : Byte) (f : Flags) : IsDecremented v f (decrement v f).1 (decrement v f).2 := by
  have h : ∀ v : Byte, ((v - 1 : Byte).toNat : Int) = ((v.toNat : Int) - 1) % 256 := by decide
  exact ⟨h v, msb_byte _, by simp [decrement], by simp [decrement], rfl, rfl, rfl⟩

theorem clear_isCleared (v : Byte) (f : Flags) : IsCleared v f (clear v f).1 (clear v f).2 :=
  ⟨rfl, rfl, rfl, rfl, rfl, rfl, rfl⟩

theorem complement_isComplemented (v : Byte) (f : Flags) : IsComplemented v f (complement v f).1 (complement v f).2 :=
  ⟨by simp [complement, BitVec.toNat_not], msb_byte _, by simp [complement], rfl, rfl, rfl, rfl⟩

theorem test_isTested (v : Byte) (f : Flags) : IsTested v f (testFlags v f) :=
  ⟨msb_byte v, by simp [testFlags], rfl, rfl, rfl, rfl⟩

theorem rotateLeft_isRotatedLeft (v : Byte) (f : Flags) : IsRotatedLeft v f (rotateLeft v f).1 (rotateLeft v f).2 := by
  have h : ∀ v : Byte, ∀ c : Bool, (∀ k < 7, (BitVec.ofNat 8 (v.toNat * 2 + bitNat c)).getLsbD (k + 1) = v.getLsbD k) ∧
      (BitVec.ofNat 8 (v.toNat * 2 + bitNat c)).getLsbD 0 = c := by decide
  exact ⟨(h v f.c).1, (h v f.c).2, shift_isShifted _ _ f⟩

theorem rotateRight_isRotatedRight (v : Byte) (f : Flags) : IsRotatedRight v f (rotateRight v f).1 (rotateRight v f).2 := by
  have h : ∀ v : Byte, ∀ c : Bool, (∀ k < 7, (BitVec.ofNat 8 (bitNat c * 128 + v.toNat / 2)).getLsbD k = v.getLsbD (k + 1)) ∧
      (BitVec.ofNat 8 (bitNat c * 128 + v.toNat / 2)).getLsbD 7 = c := by decide
  have s := shift_isShifted (rotateRight v f).1 (v.getLsbD 0) f
  refine ⟨(h v f.c).1, (h v f.c).2, ?_, s⟩
  rw [show (rotateRight v f).2 = shiftFlags (rotateRight v f).1 (v.getLsbD 0) f from rfl, s.2.2.2.1, s.1, s.2.2.1]
  rw [show (rotateRight v f).1.getLsbD 7 = f.c from (h v f.c).2]

theorem shiftLeft_isShiftedLeft (v : Byte) (f : Flags) : IsShiftedLeft v f (shiftLeft v f).1 (shiftLeft v f).2 := by
  have h : ∀ v : Byte, (∀ k < 7, (BitVec.ofNat 8 (v.toNat * 2)).getLsbD (k + 1) = v.getLsbD k) ∧
      (BitVec.ofNat 8 (v.toNat * 2)).getLsbD 0 = false := by decide
  have s := shift_isShifted (shiftLeft v f).1 (v.getLsbD 7) f
  refine ⟨(h v).1, (h v).2, ?_, s⟩
  rw [show (shiftLeft v f).2 = shiftFlags (shiftLeft v f).1 (v.getLsbD 7) f from rfl, s.2.2.2.1, s.1, s.2.2.1]
  rw [show (shiftLeft v f).1.getLsbD 7 = v.getLsbD 6 from (h v).1 6 (by omega)]

theorem shiftRightArith_isHalvedSigned (v : Byte) (f : Flags) :
    IsHalvedSigned v f (shiftRightArith v f).1 (shiftRightArith v f).2 := by
  have h : ∀ v : Byte, (∀ k < 7, (BitVec.ofNat 8 (bitNat (v.getLsbD 7) * 128 + v.toNat / 2)).getLsbD k = v.getLsbD (k + 1)) ∧
      (BitVec.ofNat 8 (bitNat (v.getLsbD 7) * 128 + v.toNat / 2)).getLsbD 7 = v.getLsbD 7 ∧
      (BitVec.ofNat 8 (bitNat (v.getLsbD 7) * 128 + v.toNat / 2)).toInt = v.toInt / 2 := by decide
  exact ⟨(h v).1, (h v).2.1, (h v).2.2, shift_isShifted _ _ f⟩

theorem shiftRight_isHalved (v : Byte) (f : Flags) : IsHalved v f (shiftRight v f).1 (shiftRight v f).2 := by
  have hv := v.isLt
  have s := shift_isShifted (shiftRight v f).1 (v.getLsbD 0) f
  have e : (shiftRight v f).1.toNat = v.toNat / 2 := by
    simp only [shiftRight, BitVec.toNat_ofNat]
    omega
  have n : (shiftRight v f).1.getLsbD 7 = false := by
    rw [bit7_eq, e]
    simp
    omega
  refine ⟨e, s.1.trans n, ?_, s⟩
  rw [show (shiftRight v f).2 = shiftFlags (shiftRight v f).1 (v.getLsbD 0) f from rfl, s.2.2.2.1, s.1, n]
  simp

theorem compareIndex_isCompared16 (x w : Word) (f : Flags) : IsCompared16 x w f (compareIndex x w f) :=
  ⟨⟨_, _, sub_isDifference (hi x) (hi w) false f, rfl, rfl⟩, by simp [compareIndex], rfl, rfl, rfl⟩

/-- Writing the flags of a byte made from flags gives those flags (R27). -/
@[simp] theorem Flags.ofByte_toByte (f : Flags) : Flags.ofByte f.toByte = f := by
  obtain ⟨h, i, n, z, v, c⟩ := f
  revert h i n z v c
  decide

/-- Bits 7 and 6 of the byte made from flags are ones (R27). -/
theorem Flags.toByte_ofByte (b : Byte) : (Flags.ofByte b).toByte = b ||| 0xC0 := by
  revert b
  decide

/-- The two bytes of a concatenation, bit by bit. -/
theorem getLsbD_join (h l : Byte) (k : Nat) :
    (join h l).getLsbD k = if k < 8 then l.getLsbD k else h.getLsbD (k - 8) := by
  simp only [join]
  rw [BitVec.getLsbD_append]

@[simp] theorem join_hi_lo (w : Word) : join (hi w) (lo w) = w := by
  apply BitVec.eq_of_getLsbD_eq
  intro k hk
  rw [getLsbD_join]
  split
  · rename_i h
    simp [lo, h]
  · rename_i h
    simp only [hi, BitVec.getLsbD_extractLsb']
    rw [show 8 + (k - 8) = k by omega]
    simp [show k - 8 < 8 by omega]

@[simp] theorem hi_join (h l : Byte) : hi (join h l) = h := by
  apply BitVec.eq_of_getLsbD_eq
  intro k hk
  rw [hi, BitVec.getLsbD_extractLsb', getLsbD_join, if_neg (by omega)]
  simp [hk]

@[simp] theorem lo_join (h l : Byte) : lo (join h l) = l := by
  apply BitVec.eq_of_getLsbD_eq
  intro k hk
  rw [lo, BitVec.getLsbD_extractLsb', getLsbD_join, if_pos (by omega)]
  simp [hk]

end Sys2Proof.Machine
end

