-- ==== Sys2Proof/Laws/State.lean ====
section
/-! SUPPORT. One lemma per field per update of the state, so that no proof unfolds a record update. -/

namespace Sys2Proof.Machine

@[simp] theorem State.setFlags_a (f : Flags) (s : State) : (s.setFlags f).a = s.a := rfl
@[simp] theorem State.setFlags_b (f : Flags) (s : State) : (s.setFlags f).b = s.b := rfl
@[simp] theorem State.setFlags_x (f : Flags) (s : State) : (s.setFlags f).x = s.x := rfl
@[simp] theorem State.setFlags_sp (f : Flags) (s : State) : (s.setFlags f).sp = s.sp := rfl
@[simp] theorem State.setFlags_pc (f : Flags) (s : State) : (s.setFlags f).pc = s.pc := rfl
@[simp] theorem State.setFlags_cc (f : Flags) (s : State) : (s.setFlags f).cc = f := rfl
@[simp] theorem State.setFlags_run (f : Flags) (s : State) : (s.setFlags f).run = s.run := rfl
@[simp] theorem State.setFlags_haltIrq (f : Flags) (s : State) : (s.setFlags f).haltIrq = s.haltIrq := rfl
@[simp] theorem State.setFlags_board (f : Flags) (s : State) : (s.setFlags f).board = s.board := rfl

@[simp] theorem State.setAcc_x (r : Acc) (v : Byte) (s : State) : (s.setAcc r v).x = s.x := by cases r <;> rfl
@[simp] theorem State.setAcc_sp (r : Acc) (v : Byte) (s : State) : (s.setAcc r v).sp = s.sp := by cases r <;> rfl
@[simp] theorem State.setAcc_pc (r : Acc) (v : Byte) (s : State) : (s.setAcc r v).pc = s.pc := by cases r <;> rfl
@[simp] theorem State.setAcc_cc (r : Acc) (v : Byte) (s : State) : (s.setAcc r v).cc = s.cc := by cases r <;> rfl
@[simp] theorem State.setAcc_run (r : Acc) (v : Byte) (s : State) : (s.setAcc r v).run = s.run := by cases r <;> rfl
@[simp] theorem State.setAcc_haltIrq (r : Acc) (v : Byte) (s : State) : (s.setAcc r v).haltIrq = s.haltIrq := by cases r <;> rfl
@[simp] theorem State.setAcc_board (r : Acc) (v : Byte) (s : State) : (s.setAcc r v).board = s.board := by cases r <;> rfl

@[simp] theorem State.acc_a (s : State) : s.acc .a = s.a := rfl
@[simp] theorem State.acc_b (s : State) : s.acc .b = s.b := rfl
@[simp] theorem State.setAcc_a_eq (v : Byte) (s : State) : s.setAcc .a v = { s with a := v } := rfl
@[simp] theorem State.setAcc_b_eq (v : Byte) (s : State) : s.setAcc .b v = { s with b := v } := rfl

@[simp] theorem State.read8_a (a : Addr) (s : State) : ((s.read8 a).2).a = s.a := rfl
@[simp] theorem State.read8_b (a : Addr) (s : State) : ((s.read8 a).2).b = s.b := rfl
@[simp] theorem State.read8_x (a : Addr) (s : State) : ((s.read8 a).2).x = s.x := rfl
@[simp] theorem State.read8_sp (a : Addr) (s : State) : ((s.read8 a).2).sp = s.sp := rfl
@[simp] theorem State.read8_pc (a : Addr) (s : State) : ((s.read8 a).2).pc = s.pc := rfl
@[simp] theorem State.read8_cc (a : Addr) (s : State) : ((s.read8 a).2).cc = s.cc := rfl
@[simp] theorem State.read8_run (a : Addr) (s : State) : ((s.read8 a).2).run = s.run := rfl
@[simp] theorem State.read8_haltIrq (a : Addr) (s : State) : ((s.read8 a).2).haltIrq = s.haltIrq := rfl
@[simp] theorem State.read8_board (a : Addr) (s : State) : ((s.read8 a).2).board = (s.board.busRead a).2 := rfl

@[simp] theorem State.write8_a (a : Addr) (v : Byte) (s : State) : (s.write8 a v).a = s.a := rfl
@[simp] theorem State.write8_b (a : Addr) (v : Byte) (s : State) : (s.write8 a v).b = s.b := rfl
@[simp] theorem State.write8_x (a : Addr) (v : Byte) (s : State) : (s.write8 a v).x = s.x := rfl
@[simp] theorem State.write8_sp (a : Addr) (v : Byte) (s : State) : (s.write8 a v).sp = s.sp := rfl
@[simp] theorem State.write8_pc (a : Addr) (v : Byte) (s : State) : (s.write8 a v).pc = s.pc := rfl
@[simp] theorem State.write8_cc (a : Addr) (v : Byte) (s : State) : (s.write8 a v).cc = s.cc := rfl
@[simp] theorem State.write8_run (a : Addr) (v : Byte) (s : State) : (s.write8 a v).run = s.run := rfl
@[simp] theorem State.write8_haltIrq (a : Addr) (v : Byte) (s : State) : (s.write8 a v).haltIrq = s.haltIrq := rfl
@[simp] theorem State.write8_board (a : Addr) (v : Byte) (s : State) : (s.write8 a v).board = s.board.busWrite a v := rfl

@[simp] theorem State.idle_a (c : BusCycle) (s : State) : (s.idle c).a = s.a := rfl
@[simp] theorem State.idle_b (c : BusCycle) (s : State) : (s.idle c).b = s.b := rfl
@[simp] theorem State.idle_x (c : BusCycle) (s : State) : (s.idle c).x = s.x := rfl
@[simp] theorem State.idle_sp (c : BusCycle) (s : State) : (s.idle c).sp = s.sp := rfl
@[simp] theorem State.idle_pc (c : BusCycle) (s : State) : (s.idle c).pc = s.pc := rfl
@[simp] theorem State.idle_cc (c : BusCycle) (s : State) : (s.idle c).cc = s.cc := rfl
@[simp] theorem State.idle_run (c : BusCycle) (s : State) : (s.idle c).run = s.run := rfl
@[simp] theorem State.idle_haltIrq (c : BusCycle) (s : State) : (s.idle c).haltIrq = s.haltIrq := rfl
@[simp] theorem State.idle_board (c : BusCycle) (s : State) : (s.idle c).board = s.board.idle c := rfl

@[simp] theorem State.dummyRead_a (a : Addr) (s : State) : (s.dummyRead a).a = s.a := rfl
@[simp] theorem State.dummyRead_b (a : Addr) (s : State) : (s.dummyRead a).b = s.b := rfl
@[simp] theorem State.dummyRead_x (a : Addr) (s : State) : (s.dummyRead a).x = s.x := rfl
@[simp] theorem State.dummyRead_sp (a : Addr) (s : State) : (s.dummyRead a).sp = s.sp := rfl
@[simp] theorem State.dummyRead_pc (a : Addr) (s : State) : (s.dummyRead a).pc = s.pc := rfl
@[simp] theorem State.dummyRead_cc (a : Addr) (s : State) : (s.dummyRead a).cc = s.cc := rfl
@[simp] theorem State.dummyRead_run (a : Addr) (s : State) : (s.dummyRead a).run = s.run := rfl
@[simp] theorem State.dummyRead_haltIrq (a : Addr) (s : State) : (s.dummyRead a).haltIrq = s.haltIrq := rfl
@[simp] theorem State.dummyRead_board (a : Addr) (s : State) : (s.dummyRead a).board = (s.board.busRead a).2 := rfl

@[simp] theorem State.inherent_a (s : State) : (s.inherent).a = s.a := rfl
@[simp] theorem State.inherent_b (s : State) : (s.inherent).b = s.b := rfl
@[simp] theorem State.inherent_x (s : State) : (s.inherent).x = s.x := rfl
@[simp] theorem State.inherent_sp (s : State) : (s.inherent).sp = s.sp := rfl
@[simp] theorem State.inherent_pc (s : State) : (s.inherent).pc = s.pc := rfl
@[simp] theorem State.inherent_cc (s : State) : (s.inherent).cc = s.cc := rfl
@[simp] theorem State.inherent_run (s : State) : (s.inherent).run = s.run := rfl
@[simp] theorem State.inherent_haltIrq (s : State) : (s.inherent).haltIrq = s.haltIrq := rfl
@[simp] theorem State.inherent_board (s : State) : (s.inherent).board = (s.board.busRead s.pc).2 := rfl

@[simp] theorem State.push8_a (v : Byte) (s : State) : (s.push8 v).a = s.a := rfl
@[simp] theorem State.push8_b (v : Byte) (s : State) : (s.push8 v).b = s.b := rfl
@[simp] theorem State.push8_x (v : Byte) (s : State) : (s.push8 v).x = s.x := rfl
@[simp] theorem State.push8_sp (v : Byte) (s : State) : (s.push8 v).sp = s.sp - 1 := rfl
@[simp] theorem State.push8_pc (v : Byte) (s : State) : (s.push8 v).pc = s.pc := rfl
@[simp] theorem State.push8_cc (v : Byte) (s : State) : (s.push8 v).cc = s.cc := rfl
@[simp] theorem State.push8_run (v : Byte) (s : State) : (s.push8 v).run = s.run := rfl
@[simp] theorem State.push8_haltIrq (v : Byte) (s : State) : (s.push8 v).haltIrq = s.haltIrq := rfl
@[simp] theorem State.push8_board (v : Byte) (s : State) : (s.push8 v).board = s.board.busWrite s.sp v := rfl

@[simp] theorem State.pull8_a (s : State) : (s.pull8.2).a = s.a := rfl
@[simp] theorem State.pull8_b (s : State) : (s.pull8.2).b = s.b := rfl
@[simp] theorem State.pull8_x (s : State) : (s.pull8.2).x = s.x := rfl
@[simp] theorem State.pull8_sp (s : State) : (s.pull8.2).sp = s.sp + 1 := rfl
@[simp] theorem State.pull8_pc (s : State) : (s.pull8.2).pc = s.pc := rfl
@[simp] theorem State.pull8_cc (s : State) : (s.pull8.2).cc = s.cc := rfl
@[simp] theorem State.pull8_run (s : State) : (s.pull8.2).run = s.run := rfl
@[simp] theorem State.pull8_haltIrq (s : State) : (s.pull8.2).haltIrq = s.haltIrq := rfl
@[simp] theorem State.pull8_board (s : State) : (s.pull8.2).board = (s.board.busRead (s.sp + 1)).2 := rfl

@[simp] theorem State.fetch8_a (s : State) : (s.fetch8.2).a = s.a := rfl
@[simp] theorem State.fetch8_b (s : State) : (s.fetch8.2).b = s.b := rfl
@[simp] theorem State.fetch8_x (s : State) : (s.fetch8.2).x = s.x := rfl
@[simp] theorem State.fetch8_sp (s : State) : (s.fetch8.2).sp = s.sp := rfl
@[simp] theorem State.fetch8_pc (s : State) : (s.fetch8.2).pc = s.pc + 1 := rfl
@[simp] theorem State.fetch8_cc (s : State) : (s.fetch8.2).cc = s.cc := rfl
@[simp] theorem State.fetch8_run (s : State) : (s.fetch8.2).run = s.run := rfl
@[simp] theorem State.fetch8_haltIrq (s : State) : (s.fetch8.2).haltIrq = s.haltIrq := rfl
@[simp] theorem State.fetch8_board (s : State) : (s.fetch8.2).board = (s.board.busRead s.pc).2 := rfl

@[simp] theorem State.mask_a (s : State) : (s.mask).a = s.a := rfl
@[simp] theorem State.mask_b (s : State) : (s.mask).b = s.b := rfl
@[simp] theorem State.mask_x (s : State) : (s.mask).x = s.x := rfl
@[simp] theorem State.mask_sp (s : State) : (s.mask).sp = s.sp := rfl
@[simp] theorem State.mask_pc (s : State) : (s.mask).pc = s.pc := rfl
@[simp] theorem State.mask_cc (s : State) : (s.mask).cc = { s.cc with i := true } := rfl
@[simp] theorem State.mask_run (s : State) : (s.mask).run = s.run := rfl
@[simp] theorem State.mask_haltIrq (s : State) : (s.mask).haltIrq = s.haltIrq := rfl
@[simp] theorem State.mask_board (s : State) : (s.mask).board = s.board := rfl

@[simp] theorem State.begin_a (s : State) : (s.begin).a = s.a := rfl
@[simp] theorem State.begin_b (s : State) : (s.begin).b = s.b := rfl
@[simp] theorem State.begin_x (s : State) : (s.begin).x = s.x := rfl
@[simp] theorem State.begin_sp (s : State) : (s.begin).sp = s.sp := rfl
@[simp] theorem State.begin_pc (s : State) : (s.begin).pc = s.pc := rfl
@[simp] theorem State.begin_cc (s : State) : (s.begin).cc = s.cc := rfl
@[simp] theorem State.begin_run (s : State) : (s.begin).run = s.run := rfl
@[simp] theorem State.begin_haltIrq (s : State) : (s.begin).haltIrq = s.haltIrq := rfl
@[simp] theorem State.begin_board (s : State) : (s.begin).board = { s.board with trace := [], cut := false } := rfl

@[simp] theorem State.idles_a (l : List BusCycle) (s : State) : (s.idles l).a = s.a := by
  induction l generalizing s with
  | nil => rfl
  | cons c rest ih => exact ih (s.idle c)
@[simp] theorem State.idles_b (l : List BusCycle) (s : State) : (s.idles l).b = s.b := by
  induction l generalizing s with
  | nil => rfl
  | cons c rest ih => exact ih (s.idle c)
@[simp] theorem State.idles_x (l : List BusCycle) (s : State) : (s.idles l).x = s.x := by
  induction l generalizing s with
  | nil => rfl
  | cons c rest ih => exact ih (s.idle c)
@[simp] theorem State.idles_sp (l : List BusCycle) (s : State) : (s.idles l).sp = s.sp := by
  induction l generalizing s with
  | nil => rfl
  | cons c rest ih => exact ih (s.idle c)
@[simp] theorem State.idles_pc (l : List BusCycle) (s : State) : (s.idles l).pc = s.pc := by
  induction l generalizing s with
  | nil => rfl
  | cons c rest ih => exact ih (s.idle c)
@[simp] theorem State.idles_cc (l : List BusCycle) (s : State) : (s.idles l).cc = s.cc := by
  induction l generalizing s with
  | nil => rfl
  | cons c rest ih => exact ih (s.idle c)
@[simp] theorem State.idles_run (l : List BusCycle) (s : State) : (s.idles l).run = s.run := by
  induction l generalizing s with
  | nil => rfl
  | cons c rest ih => exact ih (s.idle c)
@[simp] theorem State.idles_haltIrq (l : List BusCycle) (s : State) : (s.idles l).haltIrq = s.haltIrq := by
  induction l generalizing s with
  | nil => rfl
  | cons c rest ih => exact ih (s.idle c)

/-- The VMA = 0 cycles change the board alone. -/
theorem State.idles_eq (l : List BusCycle) (s : State) : s.idles l = { s with board := (s.idles l).board } := by
  induction l generalizing s with
  | nil => rfl
  | cons c rest ih => exact ih (s.idle c)

end Sys2Proof.Machine
end

