-- ==== Sys2Proof/Laws/Ops.lean ====
section
/-! SUPPORT. Laws of the shared operations: what each does to memory on a quiet board (`Stores`), what each keeps on
every board (`State.Keeps`), and how many machine cycles it makes. -/

namespace Sys2Proof.Machine

/-! ### Stores: the writes made, in order, on a quiet board -/

/-- Memory after some byte writes, in order, of which those outside RAM are lost (R68). -/
def storeAll (map : MemMap) (l : List (Addr × Byte)) (m : Memory) : Memory :=
  l.foldl (fun m p => if map.isRam p.1.toNat = true then m.write (map.home p.1.toNat) p.2 else m) m

/-- On a quiet board, `t` comes from `s` by the byte writes `l`, in order, and reads; nothing else happens. -/
def Stores (l : List (Addr × Byte)) (s t : State) : Prop :=
  s.Quiet → t.board.mem = storeAll s.board.map l s.board.mem ∧ t.board.map = s.board.map ∧
    t.board.lines = s.board.lines ∧ t.Quiet

theorem Stores.refl (s : State) : Stores [] s s := fun h => ⟨rfl, rfl, rfl, h⟩

theorem Stores.trans {l l' : List (Addr × Byte)} {s t u : State} (h : Stores l s t) (k : Stores l' t u) :
    Stores (l ++ l') s u := fun q => by
  obtain ⟨h1, h2, h3, h4⟩ := h q
  obtain ⟨k1, k2, k3, k4⟩ := k h4
  refine ⟨?_, k2.trans h2, k3.trans h3, k4⟩
  rw [k1, h1, h2, storeAll, storeAll, storeAll, List.foldl_append]

/-- Only the board matters. -/
theorem Stores.of_board {l : List (Addr × Byte)} {s t s' t' : State} (h : Stores l s t) (hs : s'.board = s.board)
    (ht : t'.board = t.board) : Stores l s' t' := by
  unfold Stores State.Quiet at h ⊢
  rw [hs, ht]
  exact h

theorem stores_read8 (a : Addr) (s : State) : Stores [] s (s.read8 a).2 := fun h => by
  obtain ⟨h1, h2, h3, h4, -⟩ := Board.Quiet.busRead_same h a
  exact ⟨h1, h2, h3, h4⟩

theorem stores_write8 (a : Addr) (v : Byte) (s : State) : Stores [(a, v)] s (s.write8 a v) := fun h => by
  obtain ⟨h1, h2, h3, h4, -⟩ := Board.Quiet.busWrite_same h a v
  exact ⟨h1, h2, h3, h4⟩

theorem stores_idle (c : BusCycle) (s : State) : Stores [] s (s.idle c) := fun h => by
  obtain ⟨h1, h2, h3, h4, -⟩ := Board.Quiet.idle_same h c
  exact ⟨h1, h2, h3, h4⟩

theorem stores_idles (l : List BusCycle) (s : State) : Stores [] s (s.idles l) := by
  induction l generalizing s with
  | nil => exact Stores.refl s
  | cons c rest ih => exact (stores_idle c s).trans (ih (s.idle c))

theorem stores_inherent (s : State) : Stores [] s s.inherent := stores_read8 s.pc s

theorem stores_read16 (a : Addr) (s : State) : Stores [] s (s.read16 a).2 :=
  (stores_read8 a s).trans (stores_read8 (a + 1) _)

theorem stores_write16 (a : Addr) (v : Word) (s : State) : Stores [(a, hi v), (a + 1, lo v)] s (s.write16 a v) :=
  (stores_write8 a _ s).trans (stores_write8 (a + 1) _ _)

theorem stores_fetch8 (s : State) : Stores [] s s.fetch8.2 := (stores_read8 s.pc s).of_board rfl rfl

theorem stores_fetch16 (s : State) : Stores [] s s.fetch16.2 := (stores_fetch8 s).trans (stores_fetch8 _)

theorem stores_push8 (v : Byte) (s : State) : Stores [(s.sp, v)] s (s.push8 v) := (stores_write8 s.sp v s).of_board rfl rfl

theorem stores_pull8 (s : State) : Stores [] s s.pull8.2 := (stores_read8 (s.sp + 1) s).of_board rfl rfl

theorem stores_push16 (v : Word) (s : State) : Stores [(s.sp, lo v), (s.sp - 1, hi v)] s (s.push16 v) :=
  (stores_push8 (lo v) s).trans (stores_push8 (hi v) _)

theorem stores_pull16 (s : State) : Stores [] s s.pull16.2 := (stores_pull8 s).trans (stores_pull8 _)

theorem stores_operand8 (o : Operand8) (s : State) : Stores [] s (o.read s).2 := by
  cases o with
  | imm m => exact Stores.refl s
  | mem e => exact (stores_idles (e.approach s) s).trans (stores_read8 (e.ea s) _)

theorem stores_operand16 (o : Operand16) (s : State) : Stores [] s (o.read s).2 := by
  cases o with
  | imm w => exact Stores.refl s
  | mem e => exact (stores_idles (e.approach s) s).trans (stores_read16 (e.ea s) _)

theorem stores_store8 (e : MemOperand) (v : Byte) (s : State) : Stores [(e.ea s, v)] s (e.store8 v s) :=
  (stores_idles _ s).trans (stores_write8 (e.ea s) v _)

theorem stores_store16 (e : MemOperand) (v : Word) (s : State) :
    Stores [(e.ea s, hi v), (e.ea s + 1, lo v)] s (e.store16 v s) :=
  (stores_idles _ s).trans (stores_write16 (e.ea s) v _)

/-- The seven writes of a frame (R317). -/
theorem stores_pushFrame (s : State) : Stores s.frame s s.pushFrame := by
  have h := ((((stores_push16 s.pc s).trans (stores_push16 s.x _)).trans (stores_push8 s.a _)).trans
    (stores_push8 s.b _)).trans (stores_push8 s.cc.toByte _)
  have e : ∀ w : Word, w - 1 - 1 = w - 2 ∧ w - 1 - 1 - 1 = w - 3 ∧ w - 1 - 1 - 1 - 1 = w - 4 ∧
      w - 1 - 1 - 1 - 1 - 1 = w - 5 ∧ w - 1 - 1 - 1 - 1 - 1 - 1 = w - 6 := fun w => by
    refine ⟨?_, ?_, ?_, ?_, ?_⟩ <;> bv_omega
  obtain ⟨e2, e3, e4, e5, e6⟩ := e s.sp
  have f : s.frame = [(s.sp, lo s.pc), (s.sp - 1, hi s.pc), (s.sp - 1 - 1, lo s.x), (s.sp - 1 - 1 - 1, hi s.x),
      (s.sp - 1 - 1 - 1 - 1, s.a), (s.sp - 1 - 1 - 1 - 1 - 1, s.b), (s.sp - 1 - 1 - 1 - 1 - 1 - 1, s.cc.toByte)] := by
    rw [e6, e5, e4, e3, e2]
    rfl
  rw [f]
  exact h

theorem stores_pullFrame (s : State) : Stores [] s s.pullFrame :=
  (((((stores_pull8 s).trans (stores_pull8 _)).trans (stores_pull8 _)).trans (stores_pull16 _)).trans
    (stores_pull16 _)).of_board rfl rfl

/-! ### What is read after stores -/

/-- The byte at an address after stores: the last one made to its byte, if it is RAM. -/
theorem read_storeAll {map : MemMap} {m : Memory} (hm : m.wf = true) (l : List (Addr × Byte)) (a : Nat) :
    (storeAll map l m).read (map.home a) =
      l.foldl (fun old p => if map.home a = map.home p.1.toNat ∧ map.isRam a = true then p.2 else old)
        (m.read (map.home a)) := by
  induction l generalizing m with
  | nil => rfl
  | cons p rest ih =>
    have e : storeAll map (p :: rest) m =
        storeAll map rest (if map.isRam p.1.toNat = true then m.write (map.home p.1.toNat) p.2 else m) := rfl
    rw [e, ih]
    · rw [List.foldl_cons]
      congr 1
      by_cases h : map.home a = map.home p.1.toNat
      · rw [← MemMap.isRam_congr h, ← h]
        by_cases r : map.isRam a = true
        · simp [r, Memory.read_write_same hm]
        · simp [r]
      · by_cases r : map.isRam p.1.toNat = true
        · simp [r, h, Memory.read_write_other m p.2 h]
        · simp [r, h]
    · split
      · exact Memory.wf_write hm (MemMap.home_lt _ p.1.isLt) p.2
      · exact hm

/-- Reads and VMA = 0 cycles keep memory. -/
theorem Stores.kept {s t : State} (h : Stores [] s t) : MemoryKept s t := fun q => by
  obtain ⟨h1, h2, h3, h4⟩ := h q
  refine ⟨fun a => ?_, h2, h3, h4⟩
  unfold State.byteAt Board.byteAt
  rw [h1, h2]
  rfl

/-- The byte at an address after any stores on a quiet board with canonical memory. -/
theorem Stores.byteAt {l : List (Addr × Byte)} {s t : State} (h : Stores l s t) (q : s.Quiet) (w : s.MemoryOk) (a : Addr) :
    t.byteAt a = s.afterStores l a := by
  unfold State.byteAt Board.byteAt
  rw [(h q).1, (h q).2.1, read_storeAll w]
  rfl

/-- What the writes of an operation leave, in the terms of a claim. -/
theorem Stores.quietly {l : List (Addr × Byte)} {s t : State} (h : Stores l s t) : QuietlyStored l s t := fun q w =>
  ⟨h.byteAt q w, (h q).2⟩

/-- One write. -/
theorem Stores.byte {a : Addr} {v : Byte} {s t : State} (h : Stores [(a, v)] s t) : ByteStored a v s t := h.quietly

/-- Two writes, the high-order byte at the lower address. -/
theorem Stores.word {a : Addr} {v : Word} {s t : State} (h : Stores [(a, hi v), (a + 1, lo v)] s t) :
    WordStored a v s t := h.quietly

/-- A pushed word stands with its high-order byte at the lower address (R57). -/
theorem Stores.pushed {v : Word} {s t : State} (h : Stores [(s.sp, lo v), (s.sp - 1, hi v)] s t) :
    WordPushed v s t := h.quietly

/-- The seven writes of a frame leave the frame of R317. -/
theorem Stores.frame {s t : State} (h : Stores s.frame s t) : FrameStored s t := h.quietly

/-- No store reaches the byte of the address. -/
theorem State.afterStores_other {s : State} {l : List (Addr × Byte)} {a : Addr} (h : ∀ p ∈ l, ¬s.SameByte a p.1) :
    s.afterStores l a = s.byteAt a := by
  unfold State.afterStores
  generalize s.byteAt a = old
  induction l generalizing old with
  | nil => rfl
  | cons p rest ih =>
    rw [List.foldl_cons, if_neg (fun x => h p List.mem_cons_self x.1)]
    exact ih (fun q hq => h q (List.mem_cons_of_mem _ hq)) old

/-- A store to RAM that no later store overwrites is what the address reads as. -/
theorem State.afterStores_last {s : State} {before after : List (Addr × Byte)} {a : Addr} {v : Byte}
    (r : s.isRam a = true) (h : ∀ p ∈ after, ¬s.SameByte a p.1) :
    s.afterStores (before ++ (a, v) :: after) a = v := by
  unfold State.afterStores
  rw [List.foldl_append, List.foldl_cons, if_pos ⟨rfl, r⟩]
  induction after with
  | nil => rfl
  | cons p rest ih =>
    rw [List.foldl_cons, if_neg (fun x => h p List.mem_cons_self x.1)]
    exact ih (fun q hq => h q (List.mem_cons_of_mem _ hq))

/-! ### What the operations do to the registers -/

theorem operand8_eq (o : Operand8) (s : State) : (o.read s).2 = { s with board := (o.read s).2.board } := by
  cases o with
  | imm m => rfl
  | mem e => cases e <;> rfl

theorem operand16_eq (o : Operand16) (s : State) : (o.read s).2 = { s with board := (o.read s).2.board } := by
  cases o with
  | imm w => rfl
  | mem e => cases e <;> rfl

theorem store8_eq (e : MemOperand) (v : Byte) (s : State) : e.store8 v s = { s with board := (e.store8 v s).board } := by
  cases e <;> exact State.ext rfl rfl rfl rfl rfl rfl rfl rfl rfl

theorem store16_eq (e : MemOperand) (v : Word) (s : State) : e.store16 v s = { s with board := (e.store16 v s).board } := by
  cases e <;> exact State.ext rfl rfl rfl rfl rfl rfl rfl rfl rfl

theorem push16_eq (v : Word) (s : State) : s.push16 v = { s with sp := s.sp - 2, board := (s.push16 v).board } :=
  State.ext rfl rfl rfl (show s.sp - 1 - 1 = s.sp - 2 by bv_omega) rfl rfl rfl rfl rfl

theorem pull16_eq (s : State) : s.pull16.2 = { s with sp := s.sp + 2, board := s.pull16.2.board } :=
  State.ext rfl rfl rfl (show s.sp + 1 + 1 = s.sp + 2 by bv_omega) rfl rfl rfl rfl rfl

theorem pushFrame_eq (s : State) : s.pushFrame = { s with sp := s.sp - 7, board := s.pushFrame.board } := by
  apply State.ext <;> simp only [State.pushFrame, State.push16, State.push8_a, State.push8_b, State.push8_x, State.push8_sp,
    State.push8_pc, State.push8_cc, State.push8_run, State.push8_haltIrq]
  bv_omega

theorem acknowledge_eq (vec : Addr) (s : State) :
    s.acknowledge vec = { s with board := (s.acknowledge vec).board } := by
  by_cases h : vec = vectorNmi
  · rw [State.acknowledge, if_pos h]
  · rw [State.acknowledge, if_neg h]

theorem vector_eq (vec : Addr) (s : State) : s.vector vec = { s with pc := (s.vector vec).pc, board := (s.vector vec).board } :=
  State.ext rfl rfl rfl rfl rfl rfl rfl rfl rfl

theorem enter_eq (vec : Addr) (s : State) :
    s.enter vec = { s with cc := { s.cc with i := true }, pc := (s.enter vec).pc, board := (s.enter vec).board } := by
  have h : s.enter vec = { s.mask.acknowledge vec with pc := (s.enter vec).pc, board := (s.enter vec).board } :=
    vector_eq vec _
  rw [acknowledge_eq vec s.mask] at h
  exact h

/-! The same, field by field. -/

@[simp] theorem operand8_a (o : Operand8) (s : State) : (o.read s).2.a = s.a := by rw [operand8_eq]
@[simp] theorem operand8_b (o : Operand8) (s : State) : (o.read s).2.b = s.b := by rw [operand8_eq]
@[simp] theorem operand8_x (o : Operand8) (s : State) : (o.read s).2.x = s.x := by rw [operand8_eq]
@[simp] theorem operand8_sp (o : Operand8) (s : State) : (o.read s).2.sp = s.sp := by rw [operand8_eq]
@[simp] theorem operand8_pc (o : Operand8) (s : State) : (o.read s).2.pc = s.pc := by rw [operand8_eq]
@[simp] theorem operand8_cc (o : Operand8) (s : State) : (o.read s).2.cc = s.cc := by rw [operand8_eq]
@[simp] theorem operand8_run (o : Operand8) (s : State) : (o.read s).2.run = s.run := by rw [operand8_eq]
@[simp] theorem operand8_haltIrq (o : Operand8) (s : State) : (o.read s).2.haltIrq = s.haltIrq := by rw [operand8_eq]
@[simp] theorem operand16_a (o : Operand16) (s : State) : (o.read s).2.a = s.a := by rw [operand16_eq]
@[simp] theorem operand16_b (o : Operand16) (s : State) : (o.read s).2.b = s.b := by rw [operand16_eq]
@[simp] theorem operand16_x (o : Operand16) (s : State) : (o.read s).2.x = s.x := by rw [operand16_eq]
@[simp] theorem operand16_sp (o : Operand16) (s : State) : (o.read s).2.sp = s.sp := by rw [operand16_eq]
@[simp] theorem operand16_pc (o : Operand16) (s : State) : (o.read s).2.pc = s.pc := by rw [operand16_eq]
@[simp] theorem operand16_cc (o : Operand16) (s : State) : (o.read s).2.cc = s.cc := by rw [operand16_eq]
@[simp] theorem operand16_run (o : Operand16) (s : State) : (o.read s).2.run = s.run := by rw [operand16_eq]
@[simp] theorem operand16_haltIrq (o : Operand16) (s : State) : (o.read s).2.haltIrq = s.haltIrq := by rw [operand16_eq]
@[simp] theorem store8_a (e : MemOperand) (v : Byte) (s : State) : (e.store8 v s).a = s.a := by rw [store8_eq]
@[simp] theorem store8_b (e : MemOperand) (v : Byte) (s : State) : (e.store8 v s).b = s.b := by rw [store8_eq]
@[simp] theorem store8_x (e : MemOperand) (v : Byte) (s : State) : (e.store8 v s).x = s.x := by rw [store8_eq]
@[simp] theorem store8_sp (e : MemOperand) (v : Byte) (s : State) : (e.store8 v s).sp = s.sp := by rw [store8_eq]
@[simp] theorem store8_pc (e : MemOperand) (v : Byte) (s : State) : (e.store8 v s).pc = s.pc := by rw [store8_eq]
@[simp] theorem store8_cc (e : MemOperand) (v : Byte) (s : State) : (e.store8 v s).cc = s.cc := by rw [store8_eq]
@[simp] theorem store8_run (e : MemOperand) (v : Byte) (s : State) : (e.store8 v s).run = s.run := by rw [store8_eq]
@[simp] theorem store8_haltIrq (e : MemOperand) (v : Byte) (s : State) : (e.store8 v s).haltIrq = s.haltIrq := by rw [store8_eq]
@[simp] theorem store16_a (e : MemOperand) (v : Word) (s : State) : (e.store16 v s).a = s.a := by rw [store16_eq]
@[simp] theorem store16_b (e : MemOperand) (v : Word) (s : State) : (e.store16 v s).b = s.b := by rw [store16_eq]
@[simp] theorem store16_x (e : MemOperand) (v : Word) (s : State) : (e.store16 v s).x = s.x := by rw [store16_eq]
@[simp] theorem store16_sp (e : MemOperand) (v : Word) (s : State) : (e.store16 v s).sp = s.sp := by rw [store16_eq]
@[simp] theorem store16_pc (e : MemOperand) (v : Word) (s : State) : (e.store16 v s).pc = s.pc := by rw [store16_eq]
@[simp] theorem store16_cc (e : MemOperand) (v : Word) (s : State) : (e.store16 v s).cc = s.cc := by rw [store16_eq]
@[simp] theorem store16_run (e : MemOperand) (v : Word) (s : State) : (e.store16 v s).run = s.run := by rw [store16_eq]
@[simp] theorem store16_haltIrq (e : MemOperand) (v : Word) (s : State) : (e.store16 v s).haltIrq = s.haltIrq := by rw [store16_eq]
@[simp] theorem push16_a (v : Word) (s : State) : (s.push16 v).a = s.a := by rw [push16_eq]
@[simp] theorem push16_b (v : Word) (s : State) : (s.push16 v).b = s.b := by rw [push16_eq]
@[simp] theorem push16_x (v : Word) (s : State) : (s.push16 v).x = s.x := by rw [push16_eq]
@[simp] theorem push16_sp (v : Word) (s : State) : (s.push16 v).sp = s.sp - 2 := by rw [push16_eq]
@[simp] theorem push16_pc (v : Word) (s : State) : (s.push16 v).pc = s.pc := by rw [push16_eq]
@[simp] theorem push16_cc (v : Word) (s : State) : (s.push16 v).cc = s.cc := by rw [push16_eq]
@[simp] theorem push16_run (v : Word) (s : State) : (s.push16 v).run = s.run := by rw [push16_eq]
@[simp] theorem push16_haltIrq (v : Word) (s : State) : (s.push16 v).haltIrq = s.haltIrq := by rw [push16_eq]
@[simp] theorem pull16_a (s : State) : s.pull16.2.a = s.a := by rw [pull16_eq]
@[simp] theorem pull16_b (s : State) : s.pull16.2.b = s.b := by rw [pull16_eq]
@[simp] theorem pull16_x (s : State) : s.pull16.2.x = s.x := by rw [pull16_eq]
@[simp] theorem pull16_sp (s : State) : s.pull16.2.sp = s.sp + 2 := by rw [pull16_eq]
@[simp] theorem pull16_pc (s : State) : s.pull16.2.pc = s.pc := by rw [pull16_eq]
@[simp] theorem pull16_cc (s : State) : s.pull16.2.cc = s.cc := by rw [pull16_eq]
@[simp] theorem pull16_run (s : State) : s.pull16.2.run = s.run := by rw [pull16_eq]
@[simp] theorem pull16_haltIrq (s : State) : s.pull16.2.haltIrq = s.haltIrq := by rw [pull16_eq]
@[simp] theorem pushFrame_a (s : State) : s.pushFrame.a = s.a := by rw [pushFrame_eq]
@[simp] theorem pushFrame_b (s : State) : s.pushFrame.b = s.b := by rw [pushFrame_eq]
@[simp] theorem pushFrame_x (s : State) : s.pushFrame.x = s.x := by rw [pushFrame_eq]
@[simp] theorem pushFrame_sp (s : State) : s.pushFrame.sp = s.sp - 7 := by rw [pushFrame_eq]
@[simp] theorem pushFrame_pc (s : State) : s.pushFrame.pc = s.pc := by rw [pushFrame_eq]
@[simp] theorem pushFrame_cc (s : State) : s.pushFrame.cc = s.cc := by rw [pushFrame_eq]
@[simp] theorem pushFrame_run (s : State) : s.pushFrame.run = s.run := by rw [pushFrame_eq]
@[simp] theorem pushFrame_haltIrq (s : State) : s.pushFrame.haltIrq = s.haltIrq := by rw [pushFrame_eq]
@[simp] theorem enter_a (vec : Addr) (s : State) : (s.enter vec).a = s.a := by rw [enter_eq]
@[simp] theorem enter_b (vec : Addr) (s : State) : (s.enter vec).b = s.b := by rw [enter_eq]
@[simp] theorem enter_x (vec : Addr) (s : State) : (s.enter vec).x = s.x := by rw [enter_eq]
@[simp] theorem enter_sp (vec : Addr) (s : State) : (s.enter vec).sp = s.sp := by rw [enter_eq]
@[simp] theorem enter_cc (vec : Addr) (s : State) : (s.enter vec).cc = { s.cc with i := true } := by rw [enter_eq]
@[simp] theorem enter_run (vec : Addr) (s : State) : (s.enter vec).run = s.run := by rw [enter_eq]
@[simp] theorem enter_haltIrq (vec : Addr) (s : State) : (s.enter vec).haltIrq = s.haltIrq := by rw [enter_eq]

/-! ### What a read gives -/

/-- On a quiet board a read of RAM or ROM gives the byte there. -/
theorem read8_value {s : State} (q : s.Quiet) {a : Addr} (h : s.isMemory a = true) : (s.read8 a).1 = s.byteAt a :=
  Board.Quiet.busRead_value q h

/-- A read of RAM or ROM from a state that stores lead to. -/
theorem Stores.read8_value {l : List (Addr × Byte)} {s t : State} (h : Stores l s t) (q : s.Quiet) {a : Addr}
    (m : s.isMemory a = true) : (t.read8 a).1 = t.byteAt a := by
  obtain ⟨-, h2, -, h4⟩ := h q
  refine Sys2Proof.Machine.read8_value h4 ?_
  unfold State.isMemory
  rw [h2]
  exact m

theorem Stores.read16_value {l : List (Addr × Byte)} {s t : State} (h : Stores l s t) (q : s.Quiet) {a : Addr}
    (m : s.isMemory a = true) (m' : s.isMemory (a + 1) = true) : (t.read16 a).1 = t.wordAt a := by
  have e1 := h.read8_value q m
  have e2 := (h.trans (stores_read8 a t)).read8_value q m'
  have e3 := ((stores_read8 a t).kept (h q).2.2.2).1 (a + 1)
  unfold State.read16 State.wordAt join
  dsimp only
  rw [e1, e2, e3]

/-! ### What every operation keeps, on every board -/

/-- What the operations of the board keep, of a state. -/
def State.Keeps (s t : State) : Prop := s.board.Keeps t.board

theorem State.Keeps.refl (s : State) : s.Keeps s := Board.Keeps.refl _

theorem State.Keeps.trans {s t u : State} (h : s.Keeps t) (k : t.Keeps u) : s.Keeps u := Board.Keeps.trans h k

theorem State.Keeps.of_board {s t u : State} (h : s.Keeps t) (e : u.board = t.board) : s.Keeps u := by
  unfold State.Keeps at h ⊢
  rw [e]
  exact h

theorem State.Keeps.inv {s t : State} (h : s.Keeps t) (i : s.Inv) : t.Inv := Board.Keeps.inv h i

theorem keeps_read8 (a : Addr) (s : State) : s.Keeps (s.read8 a).2 := Board.keeps_busRead a s.board
theorem keeps_write8 (a : Addr) (v : Byte) (s : State) : s.Keeps (s.write8 a v) := Board.keeps_busWrite a v s.board
theorem keeps_idle (c : BusCycle) (s : State) : s.Keeps (s.idle c) := Board.keeps_idle c s.board

theorem keeps_idles (l : List BusCycle) (s : State) : s.Keeps (s.idles l) := by
  induction l generalizing s with
  | nil => exact State.Keeps.refl s
  | cons c rest ih => exact (keeps_idle c s).trans (ih (s.idle c))

theorem keeps_inherent (s : State) : s.Keeps s.inherent := keeps_read8 s.pc s
theorem keeps_read16 (a : Addr) (s : State) : s.Keeps (s.read16 a).2 := (keeps_read8 a s).trans (keeps_read8 _ _)
theorem keeps_write16 (a : Addr) (v : Word) (s : State) : s.Keeps (s.write16 a v) :=
  (keeps_write8 a _ s).trans (keeps_write8 _ _ _)
theorem keeps_fetch8 (s : State) : s.Keeps s.fetch8.2 := (keeps_read8 s.pc s).of_board rfl
theorem keeps_fetch16 (s : State) : s.Keeps s.fetch16.2 := (keeps_fetch8 s).trans (keeps_fetch8 _)
theorem keeps_push8 (v : Byte) (s : State) : s.Keeps (s.push8 v) := (keeps_write8 s.sp v s).of_board rfl
theorem keeps_pull8 (s : State) : s.Keeps s.pull8.2 := (keeps_read8 (s.sp + 1) s).of_board rfl
theorem keeps_push16 (v : Word) (s : State) : s.Keeps (s.push16 v) := (keeps_push8 _ s).trans (keeps_push8 _ _)
theorem keeps_pull16 (s : State) : s.Keeps s.pull16.2 := (keeps_pull8 s).trans (keeps_pull8 _)

theorem keeps_operand8 (o : Operand8) (s : State) : s.Keeps (o.read s).2 := by
  cases o with
  | imm m => exact State.Keeps.refl s
  | mem e => exact (keeps_idles (e.approach s) s).trans (keeps_read8 _ _)

theorem keeps_operand16 (o : Operand16) (s : State) : s.Keeps (o.read s).2 := by
  cases o with
  | imm w => exact State.Keeps.refl s
  | mem e => exact (keeps_idles (e.approach s) s).trans (keeps_read16 _ _)

theorem keeps_store8 (e : MemOperand) (v : Byte) (s : State) : s.Keeps (e.store8 v s) :=
  (keeps_idles _ s).trans (keeps_write8 _ _ _)

theorem keeps_store16 (e : MemOperand) (v : Word) (s : State) : s.Keeps (e.store16 v s) :=
  (keeps_idles _ s).trans (keeps_write16 _ _ _)

theorem keeps_pushFrame (s : State) : s.Keeps s.pushFrame :=
  ((((keeps_push16 _ s).trans (keeps_push16 _ _)).trans (keeps_push8 _ _)).trans (keeps_push8 _ _)).trans (keeps_push8 _ _)

theorem keeps_pullFrame (s : State) : s.Keeps s.pullFrame :=
  (((((keeps_pull8 s).trans (keeps_pull8 _)).trans (keeps_pull8 _)).trans (keeps_pull16 _)).trans
    (keeps_pull16 _)).of_board rfl

theorem keeps_enter (vec : Addr) (s : State) : s.Keeps (s.enter vec) := by
  have h : s.Keeps (s.mask.acknowledge vec) := by
    unfold State.acknowledge
    split
    · exact Board.Keeps.of_eq rfl rfl rfl rfl rfl
    · exact State.Keeps.refl s
  exact (h.trans (keeps_read16 vec _)).of_board rfl

theorem keeps_takeInterrupt (vec : Addr) (s : State) : s.Keeps (s.takeInterrupt vec) :=
  (((keeps_idles _ s).trans (keeps_pushFrame _)).trans (keeps_idle _ _)).trans (keeps_enter vec _)

theorem keeps_wake (vec : Addr) (s : State) : s.Keeps (s.wake vec) :=
  ((keeps_idles _ s).trans (keeps_enter vec _)).of_board rfl

theorem keeps_restart (s : State) : s.Keeps s.restart := by
  have h : s.board.Keeps { s.board with nmiPending := false, resetFor := none, destroyed := false, free := s.board.free + 5 } :=
    Board.Keeps.of_eq rfl rfl rfl rfl rfl
  exact h.trans ((Board.keeps_busRead vectorRestart _).trans (Board.keeps_busRead (vectorRestart + 1) _))

theorem keeps_scramble (s : State) : s.Keeps s.scramble := Board.Keeps.of_eq rfl rfl rfl rfl rfl

theorem keeps_begin (s : State) : s.Keeps s.begin := Board.Keeps.of_eq rfl rfl rfl rfl rfl

/-! ### What the operations add to the trace, on every board -/

/-- The number of machine cycles of the present step so far. -/
def State.ticks (s : State) : Nat := s.board.trace.length

@[simp] theorem ticks_read8 (a : Addr) (s : State) : (s.read8 a).2.ticks = s.ticks + 1 := Board.busRead_trace a s.board
@[simp] theorem ticks_write8 (a : Addr) (v : Byte) (s : State) : (s.write8 a v).ticks = s.ticks + 1 :=
  Board.busWrite_trace a v s.board
@[simp] theorem ticks_idle (c : BusCycle) (s : State) : (s.idle c).ticks = s.ticks + 1 := Board.idle_trace c s.board

@[simp] theorem ticks_idles (l : List BusCycle) (s : State) : (s.idles l).ticks = s.ticks + l.length := by
  induction l generalizing s with
  | nil => rfl
  | cons c rest ih => rw [State.idles, ih, ticks_idle, List.length_cons]; omega

@[simp] theorem ticks_inherent (s : State) : s.inherent.ticks = s.ticks + 1 := ticks_read8 s.pc s
@[simp] theorem ticks_dummyRead (a : Addr) (s : State) : (s.dummyRead a).ticks = s.ticks + 1 := ticks_read8 a s
@[simp] theorem ticks_fetch8 (s : State) : s.fetch8.2.ticks = s.ticks + 1 := ticks_read8 s.pc s
@[simp] theorem ticks_push8 (v : Byte) (s : State) : (s.push8 v).ticks = s.ticks + 1 := ticks_write8 s.sp v s
@[simp] theorem ticks_pull8 (s : State) : s.pull8.2.ticks = s.ticks + 1 := ticks_read8 (s.sp + 1) s

@[simp] theorem ticks_read16 (a : Addr) (s : State) : (s.read16 a).2.ticks = s.ticks + 2 := by simp [State.read16]
@[simp] theorem ticks_write16 (a : Addr) (v : Word) (s : State) : (s.write16 a v).ticks = s.ticks + 2 := by
  simp [State.write16]
@[simp] theorem ticks_push16 (v : Word) (s : State) : (s.push16 v).ticks = s.ticks + 2 := by simp [State.push16]
@[simp] theorem ticks_pull16 (s : State) : s.pull16.2.ticks = s.ticks + 2 := by simp [State.pull16]
@[simp] theorem ticks_pushFrame (s : State) : s.pushFrame.ticks = s.ticks + 7 := by simp [State.pushFrame]

end Sys2Proof.Machine
end

