-- ==== Sys2Proof/Laws/Instructions.lean ====
section
/-! SUPPORT. The shared operations of the instruction families: what each stores on a quiet board (`Stores`) and that each
keeps what every bus operation keeps (`State.Keeps`); and that no meaning stops. -/

namespace Sys2Proof.Machine

theorem stores_addOp (r : Acc) (o : Operand8) (s : State) : Stores [] s (addOp r o s) :=
  (stores_operand8 o s).of_board rfl (by simp [addOp])

theorem keeps_addOp (r : Acc) (o : Operand8) (s : State) : s.Keeps (addOp r o s) :=
  (keeps_operand8 o s).of_board (by simp [addOp])

theorem stores_adcOp (r : Acc) (o : Operand8) (s : State) : Stores [] s (adcOp r o s) :=
  (stores_operand8 o s).of_board rfl (by simp [adcOp])

theorem keeps_adcOp (r : Acc) (o : Operand8) (s : State) : s.Keeps (adcOp r o s) :=
  (keeps_operand8 o s).of_board (by simp [adcOp])

theorem stores_subOp (r : Acc) (o : Operand8) (s : State) : Stores [] s (subOp r o s) :=
  (stores_operand8 o s).of_board rfl (by simp [subOp])

theorem keeps_subOp (r : Acc) (o : Operand8) (s : State) : s.Keeps (subOp r o s) :=
  (keeps_operand8 o s).of_board (by simp [subOp])

theorem stores_sbcOp (r : Acc) (o : Operand8) (s : State) : Stores [] s (sbcOp r o s) :=
  (stores_operand8 o s).of_board rfl (by simp [sbcOp])

theorem keeps_sbcOp (r : Acc) (o : Operand8) (s : State) : s.Keeps (sbcOp r o s) :=
  (keeps_operand8 o s).of_board (by simp [sbcOp])

theorem stores_andOp (r : Acc) (o : Operand8) (s : State) : Stores [] s (andOp r o s) :=
  (stores_operand8 o s).of_board rfl (by simp [andOp])

theorem keeps_andOp (r : Acc) (o : Operand8) (s : State) : s.Keeps (andOp r o s) :=
  (keeps_operand8 o s).of_board (by simp [andOp])

theorem stores_oraOp (r : Acc) (o : Operand8) (s : State) : Stores [] s (oraOp r o s) :=
  (stores_operand8 o s).of_board rfl (by simp [oraOp])

theorem keeps_oraOp (r : Acc) (o : Operand8) (s : State) : s.Keeps (oraOp r o s) :=
  (keeps_operand8 o s).of_board (by simp [oraOp])

theorem stores_eorOp (r : Acc) (o : Operand8) (s : State) : Stores [] s (eorOp r o s) :=
  (stores_operand8 o s).of_board rfl (by simp [eorOp])

theorem keeps_eorOp (r : Acc) (o : Operand8) (s : State) : s.Keeps (eorOp r o s) :=
  (keeps_operand8 o s).of_board (by simp [eorOp])

theorem stores_ldaOp (r : Acc) (o : Operand8) (s : State) : Stores [] s (ldaOp r o s) :=
  (stores_operand8 o s).of_board rfl (by simp [ldaOp])

theorem keeps_ldaOp (r : Acc) (o : Operand8) (s : State) : s.Keeps (ldaOp r o s) :=
  (keeps_operand8 o s).of_board (by simp [ldaOp])

theorem stores_cmpOp (r : Acc) (o : Operand8) (s : State) : Stores [] s (cmpOp r o s) :=
  (stores_operand8 o s).of_board rfl (by simp [cmpOp])

theorem keeps_cmpOp (r : Acc) (o : Operand8) (s : State) : s.Keeps (cmpOp r o s) :=
  (keeps_operand8 o s).of_board (by simp [cmpOp])

theorem stores_bitOp (r : Acc) (o : Operand8) (s : State) : Stores [] s (bitOp r o s) :=
  (stores_operand8 o s).of_board rfl (by simp [bitOp])

theorem keeps_bitOp (r : Acc) (o : Operand8) (s : State) : s.Keeps (bitOp r o s) :=
  (keeps_operand8 o s).of_board (by simp [bitOp])

theorem stores_cpxOp (o : Operand16) (s : State) : Stores [] s (cpxOp o s) :=
  (stores_operand16 o s).of_board rfl (by simp [cpxOp])

theorem keeps_cpxOp (o : Operand16) (s : State) : s.Keeps (cpxOp o s) :=
  (keeps_operand16 o s).of_board (by simp [cpxOp])

theorem stores_ldxOp (o : Operand16) (s : State) : Stores [] s (ldxOp o s) :=
  (stores_operand16 o s).of_board rfl (by simp [ldxOp])

theorem keeps_ldxOp (o : Operand16) (s : State) : s.Keeps (ldxOp o s) :=
  (keeps_operand16 o s).of_board (by simp [ldxOp])

theorem stores_ldsOp (o : Operand16) (s : State) : Stores [] s (ldsOp o s) :=
  (stores_operand16 o s).of_board rfl (by simp [ldsOp])

theorem keeps_ldsOp (o : Operand16) (s : State) : s.Keeps (ldsOp o s) :=
  (keeps_operand16 o s).of_board (by simp [ldsOp])

theorem stores_abaOp (s : State) : Stores [] s (abaOp s) := (stores_inherent s).of_board rfl (by simp [abaOp])

theorem keeps_abaOp (s : State) : s.Keeps (abaOp s) := (keeps_inherent s).of_board (by simp [abaOp])

theorem stores_sbaOp (s : State) : Stores [] s (sbaOp s) := (stores_inherent s).of_board rfl (by simp [sbaOp])

theorem keeps_sbaOp (s : State) : s.Keeps (sbaOp s) := (keeps_inherent s).of_board (by simp [sbaOp])

theorem stores_cbaOp (s : State) : Stores [] s (cbaOp s) := (stores_inherent s).of_board rfl (by simp [cbaOp])

theorem keeps_cbaOp (s : State) : s.Keeps (cbaOp s) := (keeps_inherent s).of_board (by simp [cbaOp])

theorem stores_tabOp (s : State) : Stores [] s (tabOp s) := (stores_inherent s).of_board rfl (by simp [tabOp])

theorem keeps_tabOp (s : State) : s.Keeps (tabOp s) := (keeps_inherent s).of_board (by simp [tabOp])

theorem stores_tbaOp (s : State) : Stores [] s (tbaOp s) := (stores_inherent s).of_board rfl (by simp [tbaOp])

theorem keeps_tbaOp (s : State) : s.Keeps (tbaOp s) := (keeps_inherent s).of_board (by simp [tbaOp])

theorem stores_unaryAcc (f : Byte → Flags → Byte × Flags) (r : Acc) (s : State) : Stores [] s (unaryAcc f r s) :=
  (stores_inherent s).of_board rfl (by simp [unaryAcc])

theorem keeps_unaryAcc (f : Byte → Flags → Byte × Flags) (r : Acc) (s : State) : s.Keeps (unaryAcc f r s) :=
  (keeps_inherent s).of_board (by simp [unaryAcc])

/-- The read-modify-write pattern stores one byte, computed from the byte it read (R63, R133). -/
theorem stores_unaryMem (f : Byte → Flags → Byte × Flags) (e : MemOperand) (s : State) :
    Stores [(e.ea s, (f (s.loaded e) s.cc).1)] s (unaryMem f e s) :=
  ((((stores_idles (e.approach s) s).trans (stores_read8 (e.ea s) _)).trans (stores_idle vmaLowUnstated _)).trans
    (stores_write8 (e.ea s) _ _)).of_board rfl (by simp [unaryMem, MemOperand.rmwRead, State.loaded, Operand8.read])

theorem keeps_unaryMem (f : Byte → Flags → Byte × Flags) (e : MemOperand) (s : State) : s.Keeps (unaryMem f e s) :=
  ((((keeps_idles (e.approach s) s).trans (keeps_read8 (e.ea s) _)).trans (keeps_idle vmaLowUnstated _)).trans
    (keeps_write8 (e.ea s) _ _)).of_board (by simp [unaryMem, MemOperand.rmwRead]; rfl)

/-- The read-modify-write pattern writes no register but the flags. -/
theorem unaryMem_eq (f : Byte → Flags → Byte × Flags) (e : MemOperand) (s : State) :
    unaryMem f e s = { s with cc := (f (s.loaded e) s.cc).2, board := (unaryMem f e s).board } := by
  apply State.ext <;> simp [unaryMem, MemOperand.rmwRead, State.loaded, Operand8.read]

theorem stores_tstAcc (r : Acc) (s : State) : Stores [] s (tstAcc r s) := (stores_inherent s).of_board rfl (by simp [tstAcc])

theorem keeps_tstAcc (r : Acc) (s : State) : s.Keeps (tstAcc r s) := (keeps_inherent s).of_board (by simp [tstAcc])

theorem stores_tstMem (e : MemOperand) (s : State) : Stores [] s (tstMem e s) :=
  (((stores_idles (e.approach s) s).trans (stores_read8 (e.ea s) _)).trans
    (stores_idles [vmaLowUnstated, vmaLow (e.ea s)] _)).of_board rfl
    (by simp [tstMem, MemOperand.rmwRead])

theorem keeps_tstMem (e : MemOperand) (s : State) : s.Keeps (tstMem e s) :=
  (((keeps_idles (e.approach s) s).trans (keeps_read8 (e.ea s) _)).trans
    (keeps_idles [vmaLowUnstated, vmaLow (e.ea s)] _)).of_board
    (by simp [tstMem, MemOperand.rmwRead])

theorem stores_drawBit (s : State) : Stores [] s s.drawBit.2 := fun q => ⟨rfl, rfl, rfl, q⟩

theorem keeps_drawBit (s : State) : s.Keeps s.drawBit.2 := Board.Keeps.of_eq rfl rfl rfl rfl rfl

theorem stores_daaOp (s : State) : Stores [] s (daaOp s) :=
  ((stores_inherent s).trans (stores_drawBit _)).of_board rfl (by simp [daaOp])

theorem keeps_daaOp (s : State) : s.Keeps (daaOp s) :=
  ((keeps_inherent s).trans (keeps_drawBit _)).of_board (by simp [daaOp])

/-- DAA writes A and the flags, V being a free bit (R143, log 7). -/
theorem daaOp_eq (s : State) :
    daaOp s =
      { s with
          a := (decimalAdjust s.inherent.drawBit.1 s.a s.cc).1
          cc := (decimalAdjust s.inherent.drawBit.1 s.a s.cc).2
          board := (daaOp s).board } := by
  apply State.ext <;> simp [daaOp, State.drawBit]

theorem stores_staOp (r : Acc) (e : MemOperand) (s : State) : Stores [(e.ea s, s.acc r)] s (staOp r e s) :=
  (stores_store8 e (s.acc r) s).of_board rfl (by simp [staOp])

theorem keeps_staOp (r : Acc) (e : MemOperand) (s : State) : s.Keeps (staOp r e s) :=
  (keeps_store8 e (s.acc r) s).of_board (by simp [staOp])

theorem stores_stxOp (e : MemOperand) (s : State) : Stores [(e.ea s, hi s.x), (e.ea s + 1, lo s.x)] s (stxOp e s) :=
  (stores_store16 e s.x s).of_board rfl (by simp [stxOp])

theorem keeps_stxOp (e : MemOperand) (s : State) : s.Keeps (stxOp e s) :=
  (keeps_store16 e s.x s).of_board (by simp [stxOp])

theorem stores_stsOp (e : MemOperand) (s : State) : Stores [(e.ea s, hi s.sp), (e.ea s + 1, lo s.sp)] s (stsOp e s) :=
  (stores_store16 e s.sp s).of_board rfl (by simp [stsOp])

theorem keeps_stsOp (e : MemOperand) (s : State) : s.Keeps (stsOp e s) :=
  (keeps_store16 e s.sp s).of_board (by simp [stsOp])

theorem stores_inherent4 (c : BusCycle) (s : State) : Stores [] s (s.inherent4 c) := (stores_inherent s).trans (stores_idles _ _)

theorem keeps_inherent4 (c : BusCycle) (s : State) : s.Keeps (s.inherent4 c) := (keeps_inherent s).trans (keeps_idles _ _)

theorem stores_pshOp (r : Acc) (s : State) : Stores [(s.sp, s.acc r)] s (pshOp r s) :=
  ((stores_inherent s).trans (stores_push8 (s.acc r) _)).trans (stores_idle _ _)

theorem keeps_pshOp (r : Acc) (s : State) : s.Keeps (pshOp r s) :=
  ((keeps_inherent s).trans (keeps_push8 (s.acc r) _)).trans (keeps_idle _ _)

theorem stores_pulOp (r : Acc) (s : State) : Stores [] s (pulOp r s) :=
  (((stores_inherent s).trans (stores_idle (vmaLow s.sp) _)).trans (stores_pull8 _)).of_board rfl (by simp [pulOp])

theorem keeps_pulOp (r : Acc) (s : State) : s.Keeps (pulOp r s) :=
  (((keeps_inherent s).trans (keeps_idle (vmaLow s.sp) _)).trans (keeps_pull8 _)).of_board (by simp [pulOp])

theorem stores_flagOp (f : Flags) (s : State) : Stores [] s (flagOp f s) := (stores_inherent s).of_board rfl rfl

theorem keeps_flagOp (f : Flags) (s : State) : s.Keeps (flagOp f s) := (keeps_inherent s).of_board rfl

theorem stores_branchOp (taken : Bool) (r : Byte) (s : State) : Stores [] s (branchOp taken r s) :=
  (stores_idles _ s).of_board rfl rfl

theorem keeps_branchOp (taken : Bool) (r : Byte) (s : State) : s.Keeps (branchOp taken r s) :=
  (keeps_idles _ s).of_board rfl

/-- A relative or indexed call stacks the return address (R57, R256, R258). -/
theorem stores_call (c : BusCycle) (l : List BusCycle) (s : State) :
    Stores [(s.sp, lo s.pc), (s.sp - 1, hi s.pc)] s (((s.idle c).push16 s.pc).idles l) :=
  ((stores_idle c s).trans (stores_push16 s.pc _)).trans (stores_idles l _)

theorem keeps_call (c : BusCycle) (l : List BusCycle) (s : State) : s.Keeps (((s.idle c).push16 s.pc).idles l) :=
  ((keeps_idle c s).trans (keeps_push16 s.pc _)).trans (keeps_idles l _)

theorem stores_bsrOp (r : Byte) (s : State) : Stores [(s.sp, lo s.pc), (s.sp - 1, hi s.pc)] s (bsrOp r s) :=
  (stores_call _ _ s).of_board rfl rfl

theorem keeps_bsrOp (r : Byte) (s : State) : s.Keeps (bsrOp r s) := (keeps_call _ _ s).of_board rfl

theorem stores_jsrIndexedOp (o : Byte) (s : State) : Stores [(s.sp, lo s.pc), (s.sp - 1, hi s.pc)] s (jsrIndexedOp o s) :=
  (stores_call _ _ s).of_board rfl rfl

theorem keeps_jsrIndexedOp (o : Byte) (s : State) : s.Keeps (jsrIndexedOp o s) := (keeps_call _ _ s).of_board rfl

theorem stores_jsrExtendedOp (w : Word) (s : State) :
    Stores [(s.sp, lo s.pc), (s.sp - 1, hi s.pc)] s (jsrExtendedOp w s) :=
  (((stores_read8 w s).trans (stores_push16 s.pc _)).trans ((stores_idles _ _).trans (stores_read8 (s.pc - 1) _))).of_board
    rfl rfl

theorem keeps_jsrExtendedOp (w : Word) (s : State) : s.Keeps (jsrExtendedOp w s) :=
  (((keeps_read8 w s).trans (keeps_push16 s.pc _)).trans ((keeps_idles _ _).trans (keeps_read8 (s.pc - 1) _))).of_board rfl

theorem stores_rtsOp (s : State) : Stores [] s (rtsOp s) :=
  (((stores_inherent s).trans (stores_idle (vmaLow s.sp) _)).trans (stores_pull16 _)).of_board rfl rfl

theorem keeps_rtsOp (s : State) : s.Keeps (rtsOp s) :=
  (((keeps_inherent s).trans (keeps_idle (vmaLow s.sp) _)).trans (keeps_pull16 _)).of_board rfl

theorem stores_rtiOp (s : State) : Stores [] s (rtiOp s) :=
  ((stores_inherent s).trans (stores_idle (vmaLow s.sp) _)).trans (stores_pullFrame _)

theorem keeps_rtiOp (s : State) : s.Keeps (rtiOp s) := ((keeps_inherent s).trans (keeps_idle (vmaLow s.sp) _)).trans (keeps_pullFrame _)

/-- The stores of an entry that finds the registers already saved: none. -/
theorem stores_enter (vec : Addr) (s : State) : Stores [] s (s.enter vec) := by
  have h : Stores [] s (s.mask.acknowledge vec) := by
    unfold State.acknowledge
    split <;> exact fun q => ⟨rfl, rfl, rfl, q⟩
  exact (h.trans (stores_read16 vec _)).of_board rfl rfl

theorem keeps_swiOp (s : State) : s.Keeps (swiOp s) :=
  (((keeps_inherent s).trans (keeps_pushFrame _)).trans (keeps_idle _ _)).trans (keeps_enter _ _)

theorem keeps_waiOp (s : State) : s.Keeps (waiOp s) :=
  ((keeps_inherent s).trans (keeps_pushFrame _)).of_board rfl

/-- Every meaning answers a next state, and that state keeps what every bus operation keeps. -/
theorem exec_keeps (i : Instr) (s : State) : ∃ t, exec i s = .next t ∧ s.Keeps t := by
  cases i
  case nop => exact ⟨_, rfl, keeps_inherent s⟩
  case tap => exact ⟨_, rfl, keeps_flagOp _ _⟩
  case tpa => exact ⟨_, rfl, (keeps_inherent s).of_board rfl⟩
  case inx => exact ⟨_, rfl, (keeps_inherent4 _ s).of_board rfl⟩
  case dex => exact ⟨_, rfl, (keeps_inherent4 _ s).of_board rfl⟩
  case clv => exact ⟨_, rfl, keeps_flagOp _ _⟩
  case sev => exact ⟨_, rfl, keeps_flagOp _ _⟩
  case clc => exact ⟨_, rfl, keeps_flagOp _ _⟩
  case sec => exact ⟨_, rfl, keeps_flagOp _ _⟩
  case cli => exact ⟨_, rfl, keeps_flagOp _ _⟩
  case sei => exact ⟨_, rfl, keeps_flagOp _ _⟩
  case sba => exact ⟨_, rfl, keeps_sbaOp _⟩
  case cba => exact ⟨_, rfl, keeps_cbaOp _⟩
  case tab => exact ⟨_, rfl, keeps_tabOp _⟩
  case tba => exact ⟨_, rfl, keeps_tbaOp _⟩
  case daa => exact ⟨_, rfl, keeps_daaOp _⟩
  case aba => exact ⟨_, rfl, keeps_abaOp _⟩
  case bra => exact ⟨_, rfl, keeps_branchOp _ _ _⟩
  case bhi => exact ⟨_, rfl, keeps_branchOp _ _ _⟩
  case bls => exact ⟨_, rfl, keeps_branchOp _ _ _⟩
  case bcc => exact ⟨_, rfl, keeps_branchOp _ _ _⟩
  case bcs => exact ⟨_, rfl, keeps_branchOp _ _ _⟩
  case bne => exact ⟨_, rfl, keeps_branchOp _ _ _⟩
  case beq => exact ⟨_, rfl, keeps_branchOp _ _ _⟩
  case bvc => exact ⟨_, rfl, keeps_branchOp _ _ _⟩
  case bvs => exact ⟨_, rfl, keeps_branchOp _ _ _⟩
  case bpl => exact ⟨_, rfl, keeps_branchOp _ _ _⟩
  case bmi => exact ⟨_, rfl, keeps_branchOp _ _ _⟩
  case bge => exact ⟨_, rfl, keeps_branchOp _ _ _⟩
  case blt => exact ⟨_, rfl, keeps_branchOp _ _ _⟩
  case bgt => exact ⟨_, rfl, keeps_branchOp _ _ _⟩
  case ble => exact ⟨_, rfl, keeps_branchOp _ _ _⟩
  case tsx => exact ⟨_, rfl, (keeps_inherent4 _ s).of_board rfl⟩
  case ins => exact ⟨_, rfl, (keeps_inherent4 _ s).of_board rfl⟩
  case pula => exact ⟨_, rfl, keeps_pulOp _ _⟩
  case pulb => exact ⟨_, rfl, keeps_pulOp _ _⟩
  case des => exact ⟨_, rfl, (keeps_inherent4 _ s).of_board rfl⟩
  case txs => exact ⟨_, rfl, (keeps_inherent4 _ s).of_board rfl⟩
  case psha => exact ⟨_, rfl, keeps_pshOp _ _⟩
  case pshb => exact ⟨_, rfl, keeps_pshOp _ _⟩
  case rts => exact ⟨_, rfl, keeps_rtsOp _⟩
  case rti => exact ⟨_, rfl, keeps_rtiOp _⟩
  case wai => exact ⟨_, rfl, keeps_waiOp _⟩
  case swi => exact ⟨_, rfl, keeps_swiOp _⟩
  case nega => exact ⟨_, rfl, keeps_unaryAcc _ _ _⟩
  case coma => exact ⟨_, rfl, keeps_unaryAcc _ _ _⟩
  case lsra => exact ⟨_, rfl, keeps_unaryAcc _ _ _⟩
  case rora => exact ⟨_, rfl, keeps_unaryAcc _ _ _⟩
  case asra => exact ⟨_, rfl, keeps_unaryAcc _ _ _⟩
  case asla => exact ⟨_, rfl, keeps_unaryAcc _ _ _⟩
  case rola => exact ⟨_, rfl, keeps_unaryAcc _ _ _⟩
  case deca => exact ⟨_, rfl, keeps_unaryAcc _ _ _⟩
  case inca => exact ⟨_, rfl, keeps_unaryAcc _ _ _⟩
  case tsta => exact ⟨_, rfl, keeps_tstAcc _ _⟩
  case clra => exact ⟨_, rfl, keeps_unaryAcc _ _ _⟩
  case negb => exact ⟨_, rfl, keeps_unaryAcc _ _ _⟩
  case comb => exact ⟨_, rfl, keeps_unaryAcc _ _ _⟩
  case lsrb => exact ⟨_, rfl, keeps_unaryAcc _ _ _⟩
  case rorb => exact ⟨_, rfl, keeps_unaryAcc _ _ _⟩
  case asrb => exact ⟨_, rfl, keeps_unaryAcc _ _ _⟩
  case aslb => exact ⟨_, rfl, keeps_unaryAcc _ _ _⟩
  case rolb => exact ⟨_, rfl, keeps_unaryAcc _ _ _⟩
  case decb => exact ⟨_, rfl, keeps_unaryAcc _ _ _⟩
  case incb => exact ⟨_, rfl, keeps_unaryAcc _ _ _⟩
  case tstb => exact ⟨_, rfl, keeps_tstAcc _ _⟩
  case clrb => exact ⟨_, rfl, keeps_unaryAcc _ _ _⟩
  case negIdx => exact ⟨_, rfl, keeps_unaryMem _ _ _⟩
  case comIdx => exact ⟨_, rfl, keeps_unaryMem _ _ _⟩
  case lsrIdx => exact ⟨_, rfl, keeps_unaryMem _ _ _⟩
  case rorIdx => exact ⟨_, rfl, keeps_unaryMem _ _ _⟩
  case asrIdx => exact ⟨_, rfl, keeps_unaryMem _ _ _⟩
  case aslIdx => exact ⟨_, rfl, keeps_unaryMem _ _ _⟩
  case rolIdx => exact ⟨_, rfl, keeps_unaryMem _ _ _⟩
  case decIdx => exact ⟨_, rfl, keeps_unaryMem _ _ _⟩
  case incIdx => exact ⟨_, rfl, keeps_unaryMem _ _ _⟩
  case tstIdx => exact ⟨_, rfl, keeps_tstMem _ _⟩
  case jmpIdx => exact ⟨_, rfl, (keeps_idles _ s).of_board rfl⟩
  case clrIdx => exact ⟨_, rfl, keeps_unaryMem _ _ _⟩
  case negExt => exact ⟨_, rfl, keeps_unaryMem _ _ _⟩
  case comExt => exact ⟨_, rfl, keeps_unaryMem _ _ _⟩
  case lsrExt => exact ⟨_, rfl, keeps_unaryMem _ _ _⟩
  case rorExt => exact ⟨_, rfl, keeps_unaryMem _ _ _⟩
  case asrExt => exact ⟨_, rfl, keeps_unaryMem _ _ _⟩
  case aslExt => exact ⟨_, rfl, keeps_unaryMem _ _ _⟩
  case rolExt => exact ⟨_, rfl, keeps_unaryMem _ _ _⟩
  case decExt => exact ⟨_, rfl, keeps_unaryMem _ _ _⟩
  case incExt => exact ⟨_, rfl, keeps_unaryMem _ _ _⟩
  case tstExt => exact ⟨_, rfl, keeps_tstMem _ _⟩
  case jmpExt => exact ⟨_, rfl, (State.Keeps.refl s).of_board rfl⟩
  case clrExt => exact ⟨_, rfl, keeps_unaryMem _ _ _⟩
  case subaImm => exact ⟨_, rfl, keeps_subOp _ _ _⟩
  case cmpaImm => exact ⟨_, rfl, keeps_cmpOp _ _ _⟩
  case sbcaImm => exact ⟨_, rfl, keeps_sbcOp _ _ _⟩
  case andaImm => exact ⟨_, rfl, keeps_andOp _ _ _⟩
  case bitaImm => exact ⟨_, rfl, keeps_bitOp _ _ _⟩
  case ldaaImm => exact ⟨_, rfl, keeps_ldaOp _ _ _⟩
  case eoraImm => exact ⟨_, rfl, keeps_eorOp _ _ _⟩
  case adcaImm => exact ⟨_, rfl, keeps_adcOp _ _ _⟩
  case oraaImm => exact ⟨_, rfl, keeps_oraOp _ _ _⟩
  case addaImm => exact ⟨_, rfl, keeps_addOp _ _ _⟩
  case cpxImm => exact ⟨_, rfl, keeps_cpxOp _ _⟩
  case bsr => exact ⟨_, rfl, keeps_bsrOp _ _⟩
  case ldsImm => exact ⟨_, rfl, keeps_ldsOp _ _⟩
  case subaDir => exact ⟨_, rfl, keeps_subOp _ _ _⟩
  case cmpaDir => exact ⟨_, rfl, keeps_cmpOp _ _ _⟩
  case sbcaDir => exact ⟨_, rfl, keeps_sbcOp _ _ _⟩
  case andaDir => exact ⟨_, rfl, keeps_andOp _ _ _⟩
  case bitaDir => exact ⟨_, rfl, keeps_bitOp _ _ _⟩
  case ldaaDir => exact ⟨_, rfl, keeps_ldaOp _ _ _⟩
  case staaDir => exact ⟨_, rfl, keeps_staOp _ _ _⟩
  case eoraDir => exact ⟨_, rfl, keeps_eorOp _ _ _⟩
  case adcaDir => exact ⟨_, rfl, keeps_adcOp _ _ _⟩
  case oraaDir => exact ⟨_, rfl, keeps_oraOp _ _ _⟩
  case addaDir => exact ⟨_, rfl, keeps_addOp _ _ _⟩
  case cpxDir => exact ⟨_, rfl, keeps_cpxOp _ _⟩
  case ldsDir => exact ⟨_, rfl, keeps_ldsOp _ _⟩
  case stsDir => exact ⟨_, rfl, keeps_stsOp _ _⟩
  case subaIdx => exact ⟨_, rfl, keeps_subOp _ _ _⟩
  case cmpaIdx => exact ⟨_, rfl, keeps_cmpOp _ _ _⟩
  case sbcaIdx => exact ⟨_, rfl, keeps_sbcOp _ _ _⟩
  case andaIdx => exact ⟨_, rfl, keeps_andOp _ _ _⟩
  case bitaIdx => exact ⟨_, rfl, keeps_bitOp _ _ _⟩
  case ldaaIdx => exact ⟨_, rfl, keeps_ldaOp _ _ _⟩
  case staaIdx => exact ⟨_, rfl, keeps_staOp _ _ _⟩
  case eoraIdx => exact ⟨_, rfl, keeps_eorOp _ _ _⟩
  case adcaIdx => exact ⟨_, rfl, keeps_adcOp _ _ _⟩
  case oraaIdx => exact ⟨_, rfl, keeps_oraOp _ _ _⟩
  case addaIdx => exact ⟨_, rfl, keeps_addOp _ _ _⟩
  case cpxIdx => exact ⟨_, rfl, keeps_cpxOp _ _⟩
  case jsrIdx => exact ⟨_, rfl, keeps_jsrIndexedOp _ _⟩
  case ldsIdx => exact ⟨_, rfl, keeps_ldsOp _ _⟩
  case stsIdx => exact ⟨_, rfl, keeps_stsOp _ _⟩
  case subaExt => exact ⟨_, rfl, keeps_subOp _ _ _⟩
  case cmpaExt => exact ⟨_, rfl, keeps_cmpOp _ _ _⟩
  case sbcaExt => exact ⟨_, rfl, keeps_sbcOp _ _ _⟩
  case andaExt => exact ⟨_, rfl, keeps_andOp _ _ _⟩
  case bitaExt => exact ⟨_, rfl, keeps_bitOp _ _ _⟩
  case ldaaExt => exact ⟨_, rfl, keeps_ldaOp _ _ _⟩
  case staaExt => exact ⟨_, rfl, keeps_staOp _ _ _⟩
  case eoraExt => exact ⟨_, rfl, keeps_eorOp _ _ _⟩
  case adcaExt => exact ⟨_, rfl, keeps_adcOp _ _ _⟩
  case oraaExt => exact ⟨_, rfl, keeps_oraOp _ _ _⟩
  case addaExt => exact ⟨_, rfl, keeps_addOp _ _ _⟩
  case cpxExt => exact ⟨_, rfl, keeps_cpxOp _ _⟩
  case jsrExt => exact ⟨_, rfl, keeps_jsrExtendedOp _ _⟩
  case ldsExt => exact ⟨_, rfl, keeps_ldsOp _ _⟩
  case stsExt => exact ⟨_, rfl, keeps_stsOp _ _⟩
  case subbImm => exact ⟨_, rfl, keeps_subOp _ _ _⟩
  case cmpbImm => exact ⟨_, rfl, keeps_cmpOp _ _ _⟩
  case sbcbImm => exact ⟨_, rfl, keeps_sbcOp _ _ _⟩
  case andbImm => exact ⟨_, rfl, keeps_andOp _ _ _⟩
  case bitbImm => exact ⟨_, rfl, keeps_bitOp _ _ _⟩
  case ldabImm => exact ⟨_, rfl, keeps_ldaOp _ _ _⟩
  case eorbImm => exact ⟨_, rfl, keeps_eorOp _ _ _⟩
  case adcbImm => exact ⟨_, rfl, keeps_adcOp _ _ _⟩
  case orabImm => exact ⟨_, rfl, keeps_oraOp _ _ _⟩
  case addbImm => exact ⟨_, rfl, keeps_addOp _ _ _⟩
  case ldxImm => exact ⟨_, rfl, keeps_ldxOp _ _⟩
  case subbDir => exact ⟨_, rfl, keeps_subOp _ _ _⟩
  case cmpbDir => exact ⟨_, rfl, keeps_cmpOp _ _ _⟩
  case sbcbDir => exact ⟨_, rfl, keeps_sbcOp _ _ _⟩
  case andbDir => exact ⟨_, rfl, keeps_andOp _ _ _⟩
  case bitbDir => exact ⟨_, rfl, keeps_bitOp _ _ _⟩
  case ldabDir => exact ⟨_, rfl, keeps_ldaOp _ _ _⟩
  case stabDir => exact ⟨_, rfl, keeps_staOp _ _ _⟩
  case eorbDir => exact ⟨_, rfl, keeps_eorOp _ _ _⟩
  case adcbDir => exact ⟨_, rfl, keeps_adcOp _ _ _⟩
  case orabDir => exact ⟨_, rfl, keeps_oraOp _ _ _⟩
  case addbDir => exact ⟨_, rfl, keeps_addOp _ _ _⟩
  case ldxDir => exact ⟨_, rfl, keeps_ldxOp _ _⟩
  case stxDir => exact ⟨_, rfl, keeps_stxOp _ _⟩
  case subbIdx => exact ⟨_, rfl, keeps_subOp _ _ _⟩
  case cmpbIdx => exact ⟨_, rfl, keeps_cmpOp _ _ _⟩
  case sbcbIdx => exact ⟨_, rfl, keeps_sbcOp _ _ _⟩
  case andbIdx => exact ⟨_, rfl, keeps_andOp _ _ _⟩
  case bitbIdx => exact ⟨_, rfl, keeps_bitOp _ _ _⟩
  case ldabIdx => exact ⟨_, rfl, keeps_ldaOp _ _ _⟩
  case stabIdx => exact ⟨_, rfl, keeps_staOp _ _ _⟩
  case eorbIdx => exact ⟨_, rfl, keeps_eorOp _ _ _⟩
  case adcbIdx => exact ⟨_, rfl, keeps_adcOp _ _ _⟩
  case orabIdx => exact ⟨_, rfl, keeps_oraOp _ _ _⟩
  case addbIdx => exact ⟨_, rfl, keeps_addOp _ _ _⟩
  case ldxIdx => exact ⟨_, rfl, keeps_ldxOp _ _⟩
  case stxIdx => exact ⟨_, rfl, keeps_stxOp _ _⟩
  case subbExt => exact ⟨_, rfl, keeps_subOp _ _ _⟩
  case cmpbExt => exact ⟨_, rfl, keeps_cmpOp _ _ _⟩
  case sbcbExt => exact ⟨_, rfl, keeps_sbcOp _ _ _⟩
  case andbExt => exact ⟨_, rfl, keeps_andOp _ _ _⟩
  case bitbExt => exact ⟨_, rfl, keeps_bitOp _ _ _⟩
  case ldabExt => exact ⟨_, rfl, keeps_ldaOp _ _ _⟩
  case stabExt => exact ⟨_, rfl, keeps_staOp _ _ _⟩
  case eorbExt => exact ⟨_, rfl, keeps_eorOp _ _ _⟩
  case adcbExt => exact ⟨_, rfl, keeps_adcOp _ _ _⟩
  case orabExt => exact ⟨_, rfl, keeps_oraOp _ _ _⟩
  case addbExt => exact ⟨_, rfl, keeps_addOp _ _ _⟩
  case ldxExt => exact ⟨_, rfl, keeps_ldxOp _ _⟩
  case stxExt => exact ⟨_, rfl, keeps_stxOp _ _⟩

theorem exec_next_keeps {i : Instr} {s t : State} (h : exec i s = .next t) : s.Keeps t := by
  obtain ⟨u, hu, k⟩ := exec_keeps i s
  rw [hu] at h
  cases h
  exact k

end Sys2Proof.Machine
end

