-- ==== Sys2Proof/Laws/PerInstr.lean ====
section
/-! SUPPORT. What holds of every instruction as syntax, one lemma per constructor: it is well formed (R104), it takes one
to three bytes (R90, R91), not more bytes than machine cycles, two to twelve cycles (R106), and its first byte is none of
the unassigned codes (R103). -/

namespace Sys2Proof.Laws.Encoding

/-- The shape of an instruction's bytes and its cycle count (30_encoding.md R90, R91, R103, R104, R106). -/
def Statement (i : Instr) : Prop :=
  i.wf = true ∧ (1 ≤ i.length ∧ i.length ≤ 3) ∧ i.length ≤ i.cycles ∧ (2 ≤ i.cycles ∧ i.cycles ≤ 12) ∧
    ∀ op, (encode i).head? = some op → op ∉ Machine.unassignedCodes

/-- The statement from its parts, each decided by evaluation. -/
theorem of_parts {i : Instr} {op : Byte} (n : Nat) (h : (encode i).head? = some op) (hn : i.length = n)
    (h1 : (decide (1 ≤ n) && decide (n ≤ 3) && decide (n ≤ i.cycles) && decide (2 ≤ i.cycles) && decide (i.cycles ≤ 12)) = true)
    (h2 : op ∉ Machine.unassignedCodes) : Statement i := by
  simp only [Bool.and_eq_true, decide_eq_true_eq] at h1
  obtain ⟨⟨⟨⟨a, b⟩, c⟩, d⟩, e⟩ := h1
  subst hn
  refine ⟨rfl, ⟨a, b⟩, c, ⟨d, e⟩, fun op' h' => ?_⟩
  rw [h] at h'
  cases h'
  exact h2

theorem nop : Statement .nop := of_parts 1 rfl rfl rfl (by decide)
theorem tap : Statement .tap := of_parts 1 rfl rfl rfl (by decide)
theorem tpa : Statement .tpa := of_parts 1 rfl rfl rfl (by decide)
theorem clv : Statement .clv := of_parts 1 rfl rfl rfl (by decide)
theorem sev : Statement .sev := of_parts 1 rfl rfl rfl (by decide)
theorem clc : Statement .clc := of_parts 1 rfl rfl rfl (by decide)
theorem sec : Statement .sec := of_parts 1 rfl rfl rfl (by decide)
theorem cli : Statement .cli := of_parts 1 rfl rfl rfl (by decide)
theorem sei : Statement .sei := of_parts 1 rfl rfl rfl (by decide)
theorem sba : Statement .sba := of_parts 1 rfl rfl rfl (by decide)
theorem cba : Statement .cba := of_parts 1 rfl rfl rfl (by decide)
theorem tab : Statement .tab := of_parts 1 rfl rfl rfl (by decide)
theorem tba : Statement .tba := of_parts 1 rfl rfl rfl (by decide)
theorem daa : Statement .daa := of_parts 1 rfl rfl rfl (by decide)
theorem aba : Statement .aba := of_parts 1 rfl rfl rfl (by decide)
theorem nega : Statement .nega := of_parts 1 rfl rfl rfl (by decide)
theorem coma : Statement .coma := of_parts 1 rfl rfl rfl (by decide)
theorem lsra : Statement .lsra := of_parts 1 rfl rfl rfl (by decide)
theorem rora : Statement .rora := of_parts 1 rfl rfl rfl (by decide)
theorem asra : Statement .asra := of_parts 1 rfl rfl rfl (by decide)
theorem asla : Statement .asla := of_parts 1 rfl rfl rfl (by decide)
theorem rola : Statement .rola := of_parts 1 rfl rfl rfl (by decide)
theorem deca : Statement .deca := of_parts 1 rfl rfl rfl (by decide)
theorem inca : Statement .inca := of_parts 1 rfl rfl rfl (by decide)
theorem tsta : Statement .tsta := of_parts 1 rfl rfl rfl (by decide)
theorem clra : Statement .clra := of_parts 1 rfl rfl rfl (by decide)
theorem negb : Statement .negb := of_parts 1 rfl rfl rfl (by decide)
theorem comb : Statement .comb := of_parts 1 rfl rfl rfl (by decide)
theorem lsrb : Statement .lsrb := of_parts 1 rfl rfl rfl (by decide)
theorem rorb : Statement .rorb := of_parts 1 rfl rfl rfl (by decide)
theorem asrb : Statement .asrb := of_parts 1 rfl rfl rfl (by decide)
theorem aslb : Statement .aslb := of_parts 1 rfl rfl rfl (by decide)
theorem rolb : Statement .rolb := of_parts 1 rfl rfl rfl (by decide)
theorem decb : Statement .decb := of_parts 1 rfl rfl rfl (by decide)
theorem incb : Statement .incb := of_parts 1 rfl rfl rfl (by decide)
theorem tstb : Statement .tstb := of_parts 1 rfl rfl rfl (by decide)
theorem clrb : Statement .clrb := of_parts 1 rfl rfl rfl (by decide)
theorem subaImm (v : Byte) : Statement (.subaImm v) := of_parts 2 rfl rfl rfl (by decide)
theorem cmpaImm (v : Byte) : Statement (.cmpaImm v) := of_parts 2 rfl rfl rfl (by decide)
theorem sbcaImm (v : Byte) : Statement (.sbcaImm v) := of_parts 2 rfl rfl rfl (by decide)
theorem andaImm (v : Byte) : Statement (.andaImm v) := of_parts 2 rfl rfl rfl (by decide)
theorem bitaImm (v : Byte) : Statement (.bitaImm v) := of_parts 2 rfl rfl rfl (by decide)
theorem ldaaImm (v : Byte) : Statement (.ldaaImm v) := of_parts 2 rfl rfl rfl (by decide)
theorem eoraImm (v : Byte) : Statement (.eoraImm v) := of_parts 2 rfl rfl rfl (by decide)
theorem adcaImm (v : Byte) : Statement (.adcaImm v) := of_parts 2 rfl rfl rfl (by decide)
theorem oraaImm (v : Byte) : Statement (.oraaImm v) := of_parts 2 rfl rfl rfl (by decide)
theorem addaImm (v : Byte) : Statement (.addaImm v) := of_parts 2 rfl rfl rfl (by decide)
theorem subbImm (v : Byte) : Statement (.subbImm v) := of_parts 2 rfl rfl rfl (by decide)
theorem cmpbImm (v : Byte) : Statement (.cmpbImm v) := of_parts 2 rfl rfl rfl (by decide)
theorem sbcbImm (v : Byte) : Statement (.sbcbImm v) := of_parts 2 rfl rfl rfl (by decide)
theorem andbImm (v : Byte) : Statement (.andbImm v) := of_parts 2 rfl rfl rfl (by decide)
theorem bitbImm (v : Byte) : Statement (.bitbImm v) := of_parts 2 rfl rfl rfl (by decide)
theorem ldabImm (v : Byte) : Statement (.ldabImm v) := of_parts 2 rfl rfl rfl (by decide)
theorem eorbImm (v : Byte) : Statement (.eorbImm v) := of_parts 2 rfl rfl rfl (by decide)
theorem adcbImm (v : Byte) : Statement (.adcbImm v) := of_parts 2 rfl rfl rfl (by decide)
theorem orabImm (v : Byte) : Statement (.orabImm v) := of_parts 2 rfl rfl rfl (by decide)
theorem addbImm (v : Byte) : Statement (.addbImm v) := of_parts 2 rfl rfl rfl (by decide)
theorem jmpExt (v : Word) : Statement (.jmpExt v) := of_parts 3 rfl rfl rfl (by decide)
theorem cpxImm (v : Word) : Statement (.cpxImm v) := of_parts 3 rfl rfl rfl (by decide)
theorem ldsImm (v : Word) : Statement (.ldsImm v) := of_parts 3 rfl rfl rfl (by decide)
theorem subaDir (v : Byte) : Statement (.subaDir v) := of_parts 2 rfl rfl rfl (by decide)
theorem cmpaDir (v : Byte) : Statement (.cmpaDir v) := of_parts 2 rfl rfl rfl (by decide)
theorem sbcaDir (v : Byte) : Statement (.sbcaDir v) := of_parts 2 rfl rfl rfl (by decide)
theorem andaDir (v : Byte) : Statement (.andaDir v) := of_parts 2 rfl rfl rfl (by decide)
theorem bitaDir (v : Byte) : Statement (.bitaDir v) := of_parts 2 rfl rfl rfl (by decide)
theorem ldaaDir (v : Byte) : Statement (.ldaaDir v) := of_parts 2 rfl rfl rfl (by decide)
theorem eoraDir (v : Byte) : Statement (.eoraDir v) := of_parts 2 rfl rfl rfl (by decide)
theorem adcaDir (v : Byte) : Statement (.adcaDir v) := of_parts 2 rfl rfl rfl (by decide)
theorem oraaDir (v : Byte) : Statement (.oraaDir v) := of_parts 2 rfl rfl rfl (by decide)
theorem addaDir (v : Byte) : Statement (.addaDir v) := of_parts 2 rfl rfl rfl (by decide)
theorem ldxImm (v : Word) : Statement (.ldxImm v) := of_parts 3 rfl rfl rfl (by decide)
theorem subbDir (v : Byte) : Statement (.subbDir v) := of_parts 2 rfl rfl rfl (by decide)
theorem cmpbDir (v : Byte) : Statement (.cmpbDir v) := of_parts 2 rfl rfl rfl (by decide)
theorem sbcbDir (v : Byte) : Statement (.sbcbDir v) := of_parts 2 rfl rfl rfl (by decide)
theorem andbDir (v : Byte) : Statement (.andbDir v) := of_parts 2 rfl rfl rfl (by decide)
theorem bitbDir (v : Byte) : Statement (.bitbDir v) := of_parts 2 rfl rfl rfl (by decide)
theorem ldabDir (v : Byte) : Statement (.ldabDir v) := of_parts 2 rfl rfl rfl (by decide)
theorem eorbDir (v : Byte) : Statement (.eorbDir v) := of_parts 2 rfl rfl rfl (by decide)
theorem adcbDir (v : Byte) : Statement (.adcbDir v) := of_parts 2 rfl rfl rfl (by decide)
theorem orabDir (v : Byte) : Statement (.orabDir v) := of_parts 2 rfl rfl rfl (by decide)
theorem addbDir (v : Byte) : Statement (.addbDir v) := of_parts 2 rfl rfl rfl (by decide)
theorem inx : Statement .inx := of_parts 1 rfl rfl rfl (by decide)
theorem dex : Statement .dex := of_parts 1 rfl rfl rfl (by decide)
theorem bra (v : Byte) : Statement (.bra v) := of_parts 2 rfl rfl rfl (by decide)
theorem bhi (v : Byte) : Statement (.bhi v) := of_parts 2 rfl rfl rfl (by decide)
theorem bls (v : Byte) : Statement (.bls v) := of_parts 2 rfl rfl rfl (by decide)
theorem bcc (v : Byte) : Statement (.bcc v) := of_parts 2 rfl rfl rfl (by decide)
theorem bcs (v : Byte) : Statement (.bcs v) := of_parts 2 rfl rfl rfl (by decide)
theorem bne (v : Byte) : Statement (.bne v) := of_parts 2 rfl rfl rfl (by decide)
theorem beq (v : Byte) : Statement (.beq v) := of_parts 2 rfl rfl rfl (by decide)
theorem bvc (v : Byte) : Statement (.bvc v) := of_parts 2 rfl rfl rfl (by decide)
theorem bvs (v : Byte) : Statement (.bvs v) := of_parts 2 rfl rfl rfl (by decide)
theorem bpl (v : Byte) : Statement (.bpl v) := of_parts 2 rfl rfl rfl (by decide)
theorem bmi (v : Byte) : Statement (.bmi v) := of_parts 2 rfl rfl rfl (by decide)
theorem bge (v : Byte) : Statement (.bge v) := of_parts 2 rfl rfl rfl (by decide)
theorem blt (v : Byte) : Statement (.blt v) := of_parts 2 rfl rfl rfl (by decide)
theorem bgt (v : Byte) : Statement (.bgt v) := of_parts 2 rfl rfl rfl (by decide)
theorem ble (v : Byte) : Statement (.ble v) := of_parts 2 rfl rfl rfl (by decide)
theorem tsx : Statement .tsx := of_parts 1 rfl rfl rfl (by decide)
theorem ins : Statement .ins := of_parts 1 rfl rfl rfl (by decide)
theorem pula : Statement .pula := of_parts 1 rfl rfl rfl (by decide)
theorem pulb : Statement .pulb := of_parts 1 rfl rfl rfl (by decide)
theorem des : Statement .des := of_parts 1 rfl rfl rfl (by decide)
theorem txs : Statement .txs := of_parts 1 rfl rfl rfl (by decide)
theorem psha : Statement .psha := of_parts 1 rfl rfl rfl (by decide)
theorem pshb : Statement .pshb := of_parts 1 rfl rfl rfl (by decide)
theorem jmpIdx (v : Byte) : Statement (.jmpIdx v) := of_parts 2 rfl rfl rfl (by decide)
theorem staaDir (v : Byte) : Statement (.staaDir v) := of_parts 2 rfl rfl rfl (by decide)
theorem cpxDir (v : Byte) : Statement (.cpxDir v) := of_parts 2 rfl rfl rfl (by decide)
theorem ldsDir (v : Byte) : Statement (.ldsDir v) := of_parts 2 rfl rfl rfl (by decide)
theorem subaExt (v : Word) : Statement (.subaExt v) := of_parts 3 rfl rfl rfl (by decide)
theorem cmpaExt (v : Word) : Statement (.cmpaExt v) := of_parts 3 rfl rfl rfl (by decide)
theorem sbcaExt (v : Word) : Statement (.sbcaExt v) := of_parts 3 rfl rfl rfl (by decide)
theorem andaExt (v : Word) : Statement (.andaExt v) := of_parts 3 rfl rfl rfl (by decide)
theorem bitaExt (v : Word) : Statement (.bitaExt v) := of_parts 3 rfl rfl rfl (by decide)
theorem ldaaExt (v : Word) : Statement (.ldaaExt v) := of_parts 3 rfl rfl rfl (by decide)
theorem eoraExt (v : Word) : Statement (.eoraExt v) := of_parts 3 rfl rfl rfl (by decide)
theorem adcaExt (v : Word) : Statement (.adcaExt v) := of_parts 3 rfl rfl rfl (by decide)
theorem oraaExt (v : Word) : Statement (.oraaExt v) := of_parts 3 rfl rfl rfl (by decide)
theorem addaExt (v : Word) : Statement (.addaExt v) := of_parts 3 rfl rfl rfl (by decide)
theorem stabDir (v : Byte) : Statement (.stabDir v) := of_parts 2 rfl rfl rfl (by decide)
theorem ldxDir (v : Byte) : Statement (.ldxDir v) := of_parts 2 rfl rfl rfl (by decide)
theorem subbExt (v : Word) : Statement (.subbExt v) := of_parts 3 rfl rfl rfl (by decide)
theorem cmpbExt (v : Word) : Statement (.cmpbExt v) := of_parts 3 rfl rfl rfl (by decide)
theorem sbcbExt (v : Word) : Statement (.sbcbExt v) := of_parts 3 rfl rfl rfl (by decide)
theorem andbExt (v : Word) : Statement (.andbExt v) := of_parts 3 rfl rfl rfl (by decide)
theorem bitbExt (v : Word) : Statement (.bitbExt v) := of_parts 3 rfl rfl rfl (by decide)
theorem ldabExt (v : Word) : Statement (.ldabExt v) := of_parts 3 rfl rfl rfl (by decide)
theorem eorbExt (v : Word) : Statement (.eorbExt v) := of_parts 3 rfl rfl rfl (by decide)
theorem adcbExt (v : Word) : Statement (.adcbExt v) := of_parts 3 rfl rfl rfl (by decide)
theorem orabExt (v : Word) : Statement (.orabExt v) := of_parts 3 rfl rfl rfl (by decide)
theorem addbExt (v : Word) : Statement (.addbExt v) := of_parts 3 rfl rfl rfl (by decide)
theorem rts : Statement .rts := of_parts 1 rfl rfl rfl (by decide)
theorem stsDir (v : Byte) : Statement (.stsDir v) := of_parts 2 rfl rfl rfl (by decide)
theorem subaIdx (v : Byte) : Statement (.subaIdx v) := of_parts 2 rfl rfl rfl (by decide)
theorem cmpaIdx (v : Byte) : Statement (.cmpaIdx v) := of_parts 2 rfl rfl rfl (by decide)
theorem sbcaIdx (v : Byte) : Statement (.sbcaIdx v) := of_parts 2 rfl rfl rfl (by decide)
theorem andaIdx (v : Byte) : Statement (.andaIdx v) := of_parts 2 rfl rfl rfl (by decide)
theorem bitaIdx (v : Byte) : Statement (.bitaIdx v) := of_parts 2 rfl rfl rfl (by decide)
theorem ldaaIdx (v : Byte) : Statement (.ldaaIdx v) := of_parts 2 rfl rfl rfl (by decide)
theorem eoraIdx (v : Byte) : Statement (.eoraIdx v) := of_parts 2 rfl rfl rfl (by decide)
theorem adcaIdx (v : Byte) : Statement (.adcaIdx v) := of_parts 2 rfl rfl rfl (by decide)
theorem oraaIdx (v : Byte) : Statement (.oraaIdx v) := of_parts 2 rfl rfl rfl (by decide)
theorem addaIdx (v : Byte) : Statement (.addaIdx v) := of_parts 2 rfl rfl rfl (by decide)
theorem staaExt (v : Word) : Statement (.staaExt v) := of_parts 3 rfl rfl rfl (by decide)
theorem cpxExt (v : Word) : Statement (.cpxExt v) := of_parts 3 rfl rfl rfl (by decide)
theorem ldsExt (v : Word) : Statement (.ldsExt v) := of_parts 3 rfl rfl rfl (by decide)
theorem stxDir (v : Byte) : Statement (.stxDir v) := of_parts 2 rfl rfl rfl (by decide)
theorem subbIdx (v : Byte) : Statement (.subbIdx v) := of_parts 2 rfl rfl rfl (by decide)
theorem cmpbIdx (v : Byte) : Statement (.cmpbIdx v) := of_parts 2 rfl rfl rfl (by decide)
theorem sbcbIdx (v : Byte) : Statement (.sbcbIdx v) := of_parts 2 rfl rfl rfl (by decide)
theorem andbIdx (v : Byte) : Statement (.andbIdx v) := of_parts 2 rfl rfl rfl (by decide)
theorem bitbIdx (v : Byte) : Statement (.bitbIdx v) := of_parts 2 rfl rfl rfl (by decide)
theorem ldabIdx (v : Byte) : Statement (.ldabIdx v) := of_parts 2 rfl rfl rfl (by decide)
theorem eorbIdx (v : Byte) : Statement (.eorbIdx v) := of_parts 2 rfl rfl rfl (by decide)
theorem adcbIdx (v : Byte) : Statement (.adcbIdx v) := of_parts 2 rfl rfl rfl (by decide)
theorem orabIdx (v : Byte) : Statement (.orabIdx v) := of_parts 2 rfl rfl rfl (by decide)
theorem addbIdx (v : Byte) : Statement (.addbIdx v) := of_parts 2 rfl rfl rfl (by decide)
theorem stabExt (v : Word) : Statement (.stabExt v) := of_parts 3 rfl rfl rfl (by decide)
theorem ldxExt (v : Word) : Statement (.ldxExt v) := of_parts 3 rfl rfl rfl (by decide)
theorem negExt (v : Word) : Statement (.negExt v) := of_parts 3 rfl rfl rfl (by decide)
theorem comExt (v : Word) : Statement (.comExt v) := of_parts 3 rfl rfl rfl (by decide)
theorem lsrExt (v : Word) : Statement (.lsrExt v) := of_parts 3 rfl rfl rfl (by decide)
theorem rorExt (v : Word) : Statement (.rorExt v) := of_parts 3 rfl rfl rfl (by decide)
theorem asrExt (v : Word) : Statement (.asrExt v) := of_parts 3 rfl rfl rfl (by decide)
theorem aslExt (v : Word) : Statement (.aslExt v) := of_parts 3 rfl rfl rfl (by decide)
theorem rolExt (v : Word) : Statement (.rolExt v) := of_parts 3 rfl rfl rfl (by decide)
theorem decExt (v : Word) : Statement (.decExt v) := of_parts 3 rfl rfl rfl (by decide)
theorem incExt (v : Word) : Statement (.incExt v) := of_parts 3 rfl rfl rfl (by decide)
theorem tstExt (v : Word) : Statement (.tstExt v) := of_parts 3 rfl rfl rfl (by decide)
theorem clrExt (v : Word) : Statement (.clrExt v) := of_parts 3 rfl rfl rfl (by decide)
theorem staaIdx (v : Byte) : Statement (.staaIdx v) := of_parts 2 rfl rfl rfl (by decide)
theorem cpxIdx (v : Byte) : Statement (.cpxIdx v) := of_parts 2 rfl rfl rfl (by decide)
theorem ldsIdx (v : Byte) : Statement (.ldsIdx v) := of_parts 2 rfl rfl rfl (by decide)
theorem stsExt (v : Word) : Statement (.stsExt v) := of_parts 3 rfl rfl rfl (by decide)
theorem stabIdx (v : Byte) : Statement (.stabIdx v) := of_parts 2 rfl rfl rfl (by decide)
theorem ldxIdx (v : Byte) : Statement (.ldxIdx v) := of_parts 2 rfl rfl rfl (by decide)
theorem stxExt (v : Word) : Statement (.stxExt v) := of_parts 3 rfl rfl rfl (by decide)
theorem negIdx (v : Byte) : Statement (.negIdx v) := of_parts 2 rfl rfl rfl (by decide)
theorem comIdx (v : Byte) : Statement (.comIdx v) := of_parts 2 rfl rfl rfl (by decide)
theorem lsrIdx (v : Byte) : Statement (.lsrIdx v) := of_parts 2 rfl rfl rfl (by decide)
theorem rorIdx (v : Byte) : Statement (.rorIdx v) := of_parts 2 rfl rfl rfl (by decide)
theorem asrIdx (v : Byte) : Statement (.asrIdx v) := of_parts 2 rfl rfl rfl (by decide)
theorem aslIdx (v : Byte) : Statement (.aslIdx v) := of_parts 2 rfl rfl rfl (by decide)
theorem rolIdx (v : Byte) : Statement (.rolIdx v) := of_parts 2 rfl rfl rfl (by decide)
theorem decIdx (v : Byte) : Statement (.decIdx v) := of_parts 2 rfl rfl rfl (by decide)
theorem incIdx (v : Byte) : Statement (.incIdx v) := of_parts 2 rfl rfl rfl (by decide)
theorem tstIdx (v : Byte) : Statement (.tstIdx v) := of_parts 2 rfl rfl rfl (by decide)
theorem clrIdx (v : Byte) : Statement (.clrIdx v) := of_parts 2 rfl rfl rfl (by decide)
theorem stsIdx (v : Byte) : Statement (.stsIdx v) := of_parts 2 rfl rfl rfl (by decide)
theorem stxIdx (v : Byte) : Statement (.stxIdx v) := of_parts 2 rfl rfl rfl (by decide)
theorem bsr (v : Byte) : Statement (.bsr v) := of_parts 2 rfl rfl rfl (by decide)
theorem jsrIdx (v : Byte) : Statement (.jsrIdx v) := of_parts 2 rfl rfl rfl (by decide)
theorem wai : Statement .wai := of_parts 1 rfl rfl rfl (by decide)
theorem jsrExt (v : Word) : Statement (.jsrExt v) := of_parts 3 rfl rfl rfl (by decide)
theorem rti : Statement .rti := of_parts 1 rfl rfl rfl (by decide)
theorem swi : Statement .swi := of_parts 1 rfl rfl rfl (by decide)

end Sys2Proof.Laws.Encoding
end

