-- ==== Sys2Proof/Tests/Slice0.lean ====
section
/-! SUPPORT. Tests. The expected values of the step tests are the vectors of spec/95_test_vectors.md, named in each
docstring; the decode tests are written out from spec/opcode_table.json and the map of 30_encoding.md R101; the witnesses
show that the hypotheses of each obligation can be met, at the boundary values of their clauses. -/

namespace Sys2Proof.Tests

open Machine

/-! ### Well-formedness: each check refuses an ill-formed map -/

/-- The top of every test map: RAM up to FEFF with a ROM above it. -/
def romPage : Region := { base := 0xFF00, size := 0x100, kind := .rom }

/-- A map with one more region below the ROM page. -/
def mapWith (r : Region) : MemMap := [r, romPage]

/-- RAM in page 0 is accepted. -/
theorem test_map_accepted : (mapWith { base := 0, size := 0x100, kind := .ram }).wf = true := by decide

/-- The empty region is refused (R50). -/
theorem test_map_empty_region : (mapWith { base := 0, size := 0, kind := .ram }).wf = false := by decide

/-- A region past FFFF is refused (R50). -/
theorem test_map_past_the_end : MemMap.wf [{ base := 0xFF00, size := 0x101, kind := .rom }] = false := by decide

/-- A PIA at five addresses, or beyond its fourth register, is refused (R340). -/
theorem test_map_pia_size : (mapWith { base := 0, size := 5, kind := .pia 0 0 }).wf = false ∧
    (mapWith { base := 0, size := 4, kind := .pia 0 1 }).wf = false := by decide

/-- An ACIA at three addresses is refused (R360). -/
theorem test_map_acia_size : (mapWith { base := 0, size := 3, kind := .acia 0 0 }).wf = false := by decide

/-- Two regions that share one address are refused (R383). -/
theorem test_map_overlap : (mapWith { base := 0, size := 0xFF01, kind := .ram }).wf = false := by decide

/-- Vectors that are not populated are refused (D1). -/
theorem test_map_no_vectors : MemMap.wf [{ base := 0, size := 0x100, kind := .ram }] = false := by decide

/-- A restart vector in RAM is refused (D1, R404). -/
theorem test_map_restart_in_ram : MemMap.wf [{ base := 0, size := 0x10000, kind := .ram }] = false := by decide

/-- A page of ROM repeated below is accepted (R383). -/
theorem test_map_mirror : (mapWith { base := 0, size := 0x80, kind := .mirror 0xFF80 }).wf = true := by decide

/-- A mirror that reaches past the region it repeats is refused (R383). -/
theorem test_map_mirror_past : (mapWith { base := 0, size := 0x81, kind := .mirror 0xFF80 }).wf = false := by decide

/-- A mirror of a mirror is refused (R383, log 41). -/
theorem test_map_mirror_of_mirror :
    MemMap.wf [{ base := 0, size := 0x10, kind := .mirror 0x20 }, { base := 0x20, size := 0x10, kind := .mirror 0xFF00 },
      romPage] = false := by decide

/-- The map of the reset platform is accepted. -/
theorem test_map_reset : Config.resetMap.wf = true := by decide

/-! ### Decoding: every constructor, from the operation-code map (R101); operands 34 and 12 34 -/

/-- Every byte sequence of a list decodes, whole, to its instruction. -/
def decodesAll (l : List (List Byte × Instr)) : Bool := l.all (fun p => decide (decode p.1 = .ok (p.2, [])))

/-- Row 0x of the map. -/
theorem test_decode_row_0 : decodesAll
    [([0x01], .nop), ([0x06], .tap), ([0x07], .tpa), ([0x08], .inx), ([0x09], .dex), ([0x0A], .clv), ([0x0B], .sev),
      ([0x0C], .clc), ([0x0D], .sec), ([0x0E], .cli), ([0x0F], .sei)] = true := by decide

/-- Row 1x of the map. -/
theorem test_decode_row_1 : decodesAll
    [([0x10], .sba), ([0x11], .cba), ([0x16], .tab), ([0x17], .tba), ([0x19], .daa),
      ([0x1B], .aba)] = true := by decide

/-- Row 2x of the map. -/
theorem test_decode_row_2 : decodesAll
    [([0x20, 0x34], .bra 0x34), ([0x22, 0x34], .bhi 0x34), ([0x23, 0x34], .bls 0x34), ([0x24, 0x34], .bcc 0x34),
      ([0x25, 0x34], .bcs 0x34), ([0x26, 0x34], .bne 0x34), ([0x27, 0x34], .beq 0x34), ([0x28, 0x34], .bvc 0x34),
      ([0x29, 0x34], .bvs 0x34), ([0x2A, 0x34], .bpl 0x34), ([0x2B, 0x34], .bmi 0x34), ([0x2C, 0x34], .bge 0x34),
      ([0x2D, 0x34], .blt 0x34), ([0x2E, 0x34], .bgt 0x34), ([0x2F, 0x34], .ble 0x34)] = true := by decide

/-- Row 3x of the map. -/
theorem test_decode_row_3 : decodesAll
    [([0x30], .tsx), ([0x31], .ins), ([0x32], .pula), ([0x33], .pulb), ([0x34], .des), ([0x35], .txs),
      ([0x36], .psha), ([0x37], .pshb), ([0x39], .rts), ([0x3B], .rti), ([0x3E], .wai),
      ([0x3F], .swi)] = true := by decide

/-- Row 4x of the map. -/
theorem test_decode_row_4 : decodesAll
    [([0x40], .nega), ([0x43], .coma), ([0x44], .lsra), ([0x46], .rora), ([0x47], .asra), ([0x48], .asla),
      ([0x49], .rola), ([0x4A], .deca), ([0x4C], .inca), ([0x4D], .tsta), ([0x4F], .clra)] = true := by decide

/-- Row 5x of the map. -/
theorem test_decode_row_5 : decodesAll
    [([0x50], .negb), ([0x53], .comb), ([0x54], .lsrb), ([0x56], .rorb), ([0x57], .asrb), ([0x58], .aslb),
      ([0x59], .rolb), ([0x5A], .decb), ([0x5C], .incb), ([0x5D], .tstb), ([0x5F], .clrb)] = true := by decide

/-- Row 6x of the map. -/
theorem test_decode_row_6 : decodesAll
    [([0x60, 0x34], .negIdx 0x34), ([0x63, 0x34], .comIdx 0x34), ([0x64, 0x34], .lsrIdx 0x34),
      ([0x66, 0x34], .rorIdx 0x34), ([0x67, 0x34], .asrIdx 0x34), ([0x68, 0x34], .aslIdx 0x34),
      ([0x69, 0x34], .rolIdx 0x34), ([0x6A, 0x34], .decIdx 0x34), ([0x6C, 0x34], .incIdx 0x34),
      ([0x6D, 0x34], .tstIdx 0x34), ([0x6E, 0x34], .jmpIdx 0x34), ([0x6F, 0x34], .clrIdx 0x34)] = true := by decide

/-- Row 7x of the map. -/
theorem test_decode_row_7 : decodesAll
    [([0x70, 0x12, 0x34], .negExt 0x1234), ([0x73, 0x12, 0x34], .comExt 0x1234),
      ([0x74, 0x12, 0x34], .lsrExt 0x1234), ([0x76, 0x12, 0x34], .rorExt 0x1234),
      ([0x77, 0x12, 0x34], .asrExt 0x1234), ([0x78, 0x12, 0x34], .aslExt 0x1234),
      ([0x79, 0x12, 0x34], .rolExt 0x1234), ([0x7A, 0x12, 0x34], .decExt 0x1234),
      ([0x7C, 0x12, 0x34], .incExt 0x1234), ([0x7D, 0x12, 0x34], .tstExt 0x1234),
      ([0x7E, 0x12, 0x34], .jmpExt 0x1234), ([0x7F, 0x12, 0x34], .clrExt 0x1234)] = true := by decide

/-- Row 8x of the map. -/
theorem test_decode_row_8 : decodesAll
    [([0x80, 0x34], .subaImm 0x34), ([0x81, 0x34], .cmpaImm 0x34), ([0x82, 0x34], .sbcaImm 0x34),
      ([0x84, 0x34], .andaImm 0x34), ([0x85, 0x34], .bitaImm 0x34), ([0x86, 0x34], .ldaaImm 0x34),
      ([0x88, 0x34], .eoraImm 0x34), ([0x89, 0x34], .adcaImm 0x34), ([0x8A, 0x34], .oraaImm 0x34),
      ([0x8B, 0x34], .addaImm 0x34), ([0x8C, 0x12, 0x34], .cpxImm 0x1234), ([0x8D, 0x34], .bsr 0x34),
      ([0x8E, 0x12, 0x34], .ldsImm 0x1234)] = true := by decide

/-- Row 9x of the map. -/
theorem test_decode_row_9 : decodesAll
    [([0x90, 0x34], .subaDir 0x34), ([0x91, 0x34], .cmpaDir 0x34), ([0x92, 0x34], .sbcaDir 0x34),
      ([0x94, 0x34], .andaDir 0x34), ([0x95, 0x34], .bitaDir 0x34), ([0x96, 0x34], .ldaaDir 0x34),
      ([0x97, 0x34], .staaDir 0x34), ([0x98, 0x34], .eoraDir 0x34), ([0x99, 0x34], .adcaDir 0x34),
      ([0x9A, 0x34], .oraaDir 0x34), ([0x9B, 0x34], .addaDir 0x34), ([0x9C, 0x34], .cpxDir 0x34),
      ([0x9E, 0x34], .ldsDir 0x34), ([0x9F, 0x34], .stsDir 0x34)] = true := by decide

/-- Row Ax of the map. -/
theorem test_decode_row_A : decodesAll
    [([0xA0, 0x34], .subaIdx 0x34), ([0xA1, 0x34], .cmpaIdx 0x34), ([0xA2, 0x34], .sbcaIdx 0x34),
      ([0xA4, 0x34], .andaIdx 0x34), ([0xA5, 0x34], .bitaIdx 0x34), ([0xA6, 0x34], .ldaaIdx 0x34),
      ([0xA7, 0x34], .staaIdx 0x34), ([0xA8, 0x34], .eoraIdx 0x34), ([0xA9, 0x34], .adcaIdx 0x34),
      ([0xAA, 0x34], .oraaIdx 0x34), ([0xAB, 0x34], .addaIdx 0x34), ([0xAC, 0x34], .cpxIdx 0x34),
      ([0xAD, 0x34], .jsrIdx 0x34), ([0xAE, 0x34], .ldsIdx 0x34), ([0xAF, 0x34], .stsIdx 0x34)] = true := by decide

/-- Row Bx of the map. -/
theorem test_decode_row_B : decodesAll
    [([0xB0, 0x12, 0x34], .subaExt 0x1234), ([0xB1, 0x12, 0x34], .cmpaExt 0x1234),
      ([0xB2, 0x12, 0x34], .sbcaExt 0x1234), ([0xB4, 0x12, 0x34], .andaExt 0x1234),
      ([0xB5, 0x12, 0x34], .bitaExt 0x1234), ([0xB6, 0x12, 0x34], .ldaaExt 0x1234),
      ([0xB7, 0x12, 0x34], .staaExt 0x1234), ([0xB8, 0x12, 0x34], .eoraExt 0x1234),
      ([0xB9, 0x12, 0x34], .adcaExt 0x1234), ([0xBA, 0x12, 0x34], .oraaExt 0x1234),
      ([0xBB, 0x12, 0x34], .addaExt 0x1234), ([0xBC, 0x12, 0x34], .cpxExt 0x1234),
      ([0xBD, 0x12, 0x34], .jsrExt 0x1234), ([0xBE, 0x12, 0x34], .ldsExt 0x1234),
      ([0xBF, 0x12, 0x34], .stsExt 0x1234)] = true := by decide

/-- Row Cx of the map. -/
theorem test_decode_row_C : decodesAll
    [([0xC0, 0x34], .subbImm 0x34), ([0xC1, 0x34], .cmpbImm 0x34), ([0xC2, 0x34], .sbcbImm 0x34),
      ([0xC4, 0x34], .andbImm 0x34), ([0xC5, 0x34], .bitbImm 0x34), ([0xC6, 0x34], .ldabImm 0x34),
      ([0xC8, 0x34], .eorbImm 0x34), ([0xC9, 0x34], .adcbImm 0x34), ([0xCA, 0x34], .orabImm 0x34),
      ([0xCB, 0x34], .addbImm 0x34), ([0xCE, 0x12, 0x34], .ldxImm 0x1234)] = true := by decide

/-- Row Dx of the map. -/
theorem test_decode_row_D : decodesAll
    [([0xD0, 0x34], .subbDir 0x34), ([0xD1, 0x34], .cmpbDir 0x34), ([0xD2, 0x34], .sbcbDir 0x34),
      ([0xD4, 0x34], .andbDir 0x34), ([0xD5, 0x34], .bitbDir 0x34), ([0xD6, 0x34], .ldabDir 0x34),
      ([0xD7, 0x34], .stabDir 0x34), ([0xD8, 0x34], .eorbDir 0x34), ([0xD9, 0x34], .adcbDir 0x34),
      ([0xDA, 0x34], .orabDir 0x34), ([0xDB, 0x34], .addbDir 0x34), ([0xDE, 0x34], .ldxDir 0x34),
      ([0xDF, 0x34], .stxDir 0x34)] = true := by decide

/-- Row Ex of the map. -/
theorem test_decode_row_E : decodesAll
    [([0xE0, 0x34], .subbIdx 0x34), ([0xE1, 0x34], .cmpbIdx 0x34), ([0xE2, 0x34], .sbcbIdx 0x34),
      ([0xE4, 0x34], .andbIdx 0x34), ([0xE5, 0x34], .bitbIdx 0x34), ([0xE6, 0x34], .ldabIdx 0x34),
      ([0xE7, 0x34], .stabIdx 0x34), ([0xE8, 0x34], .eorbIdx 0x34), ([0xE9, 0x34], .adcbIdx 0x34),
      ([0xEA, 0x34], .orabIdx 0x34), ([0xEB, 0x34], .addbIdx 0x34), ([0xEE, 0x34], .ldxIdx 0x34),
      ([0xEF, 0x34], .stxIdx 0x34)] = true := by decide

/-- Row Fx of the map. -/
theorem test_decode_row_F : decodesAll
    [([0xF0, 0x12, 0x34], .subbExt 0x1234), ([0xF1, 0x12, 0x34], .cmpbExt 0x1234),
      ([0xF2, 0x12, 0x34], .sbcbExt 0x1234), ([0xF4, 0x12, 0x34], .andbExt 0x1234),
      ([0xF5, 0x12, 0x34], .bitbExt 0x1234), ([0xF6, 0x12, 0x34], .ldabExt 0x1234),
      ([0xF7, 0x12, 0x34], .stabExt 0x1234), ([0xF8, 0x12, 0x34], .eorbExt 0x1234),
      ([0xF9, 0x12, 0x34], .adcbExt 0x1234), ([0xFA, 0x12, 0x34], .orabExt 0x1234),
      ([0xFB, 0x12, 0x34], .addbExt 0x1234), ([0xFE, 0x12, 0x34], .ldxExt 0x1234),
      ([0xFF, 0x12, 0x34], .stxExt 0x1234)] = true := by decide

/-- The numbering of spec/opcode_table.json: the first byte in bits 7 to 0; bits that are not given are 0. -/
theorem test_table_words :
    decodeTableWord 16 0x348B = some (.addaImm 0x34) ∧ decodeTableWord 24 0x3412BD = some (.jsrExt 0x1234) ∧
      decodeTableWord 8 0x7E = some (.jmpExt 0x0000) ∧ decodeTableWord 8 0x00 = none := by decide

/-! ### One step of an instruction: vectors of spec/95_test_vectors.md -/

/-- The platform T0 of 95_test_vectors.md Part 2 (RAM everywhere, no device) with the given bytes and registers; the
flags from a condition code byte. -/
def small (cells : List (Nat × Nat)) (a b : Byte) (x sp pc : Word) (cc : Byte) : State :=
  { State.reset with
      a := a, b := b, x := x, sp := sp, pc := pc, cc := Flags.ofByte cc
      board := { Board.atReset with
        map := [{ base := 0, size := 0x10000, kind := .ram }]
        mem := cells.foldl (fun m p => m.write p.1 (BitVec.ofNat 8 p.2)) []
        pias := []
        acias := [] } }

/-- A, B, X, SP, pc and the condition code byte after a step. -/
def registers (out : Result) : Option (List Nat) :=
  match out with
  | .next t => some [t.a.toNat, t.b.toNat, t.x.toNat, t.sp.toNat, t.pc.toNat, t.cc.toByte.toNat]
  | _ => none

/-- Bytes of memory after a step. -/
def bytes (out : Result) (l : List Addr) : List Nat :=
  match out with
  | .next t => l.map (fun a => (t.byteAt a).toNat)
  | _ => []

/-- TV-ADD-2: ADDA #$01. -/
theorem test_add_2 : registers (step (small [(0x0100, 0x8B), (0x0101, 0x01)] 0x7F 0x00 0x0000 0x01FF 0x0100 0xC0)) =
    some [0x80, 0x00, 0x0000, 0x01FF, 0x0102, 0xEA] := by decide

/-- TV-ADD-7: ADDA $02,X. -/
theorem test_add_7 : registers (step (small [(0x0100, 0xAB), (0x0101, 0x02), (0x2002,
      0xFE)] 0x01 0x00 0x2000 0x01FF 0x0100 0xC0)) =
    some [0xFF, 0x00, 0x2000, 0x01FF, 0x0102, 0xC8] := by decide

/-- TV-ADC-2: ADCA #$00. -/
theorem test_adc_2 : registers (step (small [(0x0100, 0x89), (0x0101, 0x00)] 0xFF 0x00 0x0000 0x01FF 0x0100 0xC1)) =
    some [0x00, 0x00, 0x0000, 0x01FF, 0x0102, 0xE5] := by decide

/-- TV-ADC-5: ADCA $0080. -/
theorem test_adc_5 : registers (step (small [(0x0100, 0xB9), (0x0101, 0x00), (0x0102, 0x80), (0x0080,
      0x7F)] 0x80 0x00 0x0000 0x01FF 0x0100 0xC1)) =
    some [0x00, 0x00, 0x0000, 0x01FF, 0x0103, 0xE5] := by decide

/-- TV-ABA-1: ABA. -/
theorem test_aba_1 : registers (step (small [(0x0100, 0x1B)] 0x90 0x90 0x0000 0x01FF 0x0100 0xC0)) =
    some [0x20, 0x90, 0x0000, 0x01FF, 0x0101, 0xC3] := by decide

/-- TV-ABA-2: ABA. -/
theorem test_aba_2 : registers (step (small [(0x0100, 0x1B)] 0x08 0x08 0x0000 0x01FF 0x0100 0xC0)) =
    some [0x10, 0x08, 0x0000, 0x01FF, 0x0101, 0xE0] := by decide

/-- TV-SUB-2: SUBA #$50. -/
theorem test_sub_2 : registers (step (small [(0x0100, 0x80), (0x0101, 0x50)] 0x30 0x00 0x0000 0x01FF 0x0100 0xE0)) =
    some [0xE0, 0x00, 0x0000, 0x01FF, 0x0102, 0xE9] := by decide

/-- TV-SUB-6: SUBB $FF,X. -/
theorem test_sub_6 : registers (step (small [(0x0200, 0xE0), (0x0201, 0xFF), (0x0100,
      0x05)] 0x00 0x05 0x0001 0x01FF 0x0200 0xC0)) =
    some [0x00, 0x00, 0x0001, 0x01FF, 0x0202, 0xC4] := by decide

/-- TV-SBC-1: SBCA #$FF. -/
theorem test_sbc_1 : registers (step (small [(0x0100, 0x82), (0x0101, 0xFF)] 0x00 0x00 0x0000 0x01FF 0x0100 0xC1)) =
    some [0x00, 0x00, 0x0000, 0x01FF, 0x0102, 0xC5] := by decide

/-- TV-SBC-4: SBCA $0300. -/
theorem test_sbc_4 : registers (step (small [(0x0100, 0xB2), (0x0101, 0x03), (0x0102, 0x00), (0x0300,
      0x00)] 0x80 0x00 0x0000 0x01FF 0x0100 0xC1)) =
    some [0x7F, 0x00, 0x0000, 0x01FF, 0x0103, 0xC2] := by decide

/-- TV-SBA-1: SBA. -/
theorem test_sba_1 : registers (step (small [(0x0100, 0x10)] 0x03 0x05 0x0000 0x01FF 0x0100 0xC0)) =
    some [0xFE, 0x05, 0x0000, 0x01FF, 0x0101, 0xC9] := by decide

/-- TV-CMP-3: CMPB #$7F. -/
theorem test_cmp_3 : registers (step (small [(0x0100, 0xC1), (0x0101, 0x7F)] 0x00 0x80 0x0000 0x01FF 0x0100 0xC0)) =
    some [0x00, 0x80, 0x0000, 0x01FF, 0x0102, 0xC2] := by decide

/-- TV-CMP-4: CMPA $00,X. -/
theorem test_cmp_4 : registers (step (small [(0x0100, 0xA1), (0x0101, 0x00), (0x0040,
      0xFF)] 0x01 0x00 0x0040 0x01FF 0x0100 0xC0)) =
    some [0x01, 0x00, 0x0040, 0x01FF, 0x0102, 0xC1] := by decide

/-- TV-CBA-1: CBA. -/
theorem test_cba_1 : registers (step (small [(0x0100, 0x11)] 0x10 0x20 0x0000 0x01FF 0x0100 0xC0)) =
    some [0x10, 0x20, 0x0000, 0x01FF, 0x0101, 0xC9] := by decide

/-- TV-NEG-2: NEGA. -/
theorem test_neg_2 : registers (step (small [(0x0100, 0x40)] 0x80 0x00 0x0000 0x01FF 0x0100 0xC0)) =
    some [0x80, 0x00, 0x0000, 0x01FF, 0x0101, 0xCB] := by decide

/-- TV-NEG-4: NEG $03,X. -/
theorem test_neg_4 :
    let out := step (small [(0x0100, 0x60), (0x0101, 0x03), (0x0053, 0xFF)] 0x00 0x00 0x0050 0x01FF 0x0100 0xC0)
    registers out = some [0x00, 0x00, 0x0050, 0x01FF, 0x0102, 0xC1] ∧
      bytes out [0x0053] = [0x01] := by decide

/-- TV-INC-1: INCA. -/
theorem test_inc_1 : registers (step (small [(0x0100, 0x4C)] 0x7F 0x00 0x0000 0x01FF 0x0100 0xC0)) =
    some [0x80, 0x00, 0x0000, 0x01FF, 0x0101, 0xCA] := by decide

/-- TV-INC-5: INC $0031. -/
theorem test_inc_5 :
    let out := step (small [(0x0100, 0x7C), (0x0101, 0x00), (0x0102, 0x31), (0x0031,
      0x80)] 0x00 0x00 0x0000 0x01FF 0x0100 0xC0)
    registers out = some [0x00, 0x00, 0x0000, 0x01FF, 0x0103, 0xC8] ∧
      bytes out [0x0031] = [0x81] := by decide

/-- TV-DEC-3: DECB. -/
theorem test_dec_3 : registers (step (small [(0x0100, 0x5A)] 0x00 0x01 0x0000 0x01FF 0x0100 0xC1)) =
    some [0x00, 0x00, 0x0000, 0x01FF, 0x0101, 0xC5] := by decide

/-- TV-DEC-4: DEC $10,X. -/
theorem test_dec_4 :
    let out := step (small [(0x0100, 0x6A), (0x0101, 0x10), (0x0030, 0x00)] 0x00 0x00 0x0020 0x01FF 0x0100 0xC0)
    registers out = some [0x00, 0x00, 0x0020, 0x01FF, 0x0102, 0xC8] ∧
      bytes out [0x0030] = [0xFF] := by decide

/-- TV-CLR-1: CLRA. -/
theorem test_clr_1 : registers (step (small [(0x0100, 0x4F)] 0x5A 0x00 0x0000 0x01FF 0x0100 0xFB)) =
    some [0x00, 0x00, 0x0000, 0x01FF, 0x0101, 0xF4] := by decide

/-- TV-CLR-3: CLR $01,X. -/
theorem test_clr_3 :
    let out := step (small [(0x0200, 0x6F), (0x0201, 0x01), (0x0100, 0x77)] 0x00 0x00 0x00FF 0x01FF 0x0200 0xC0)
    registers out = some [0x00, 0x00, 0x00FF, 0x01FF, 0x0202, 0xC4] ∧
      bytes out [0x0100] = [0x00] := by decide

/-- TV-TST-1: TSTA. -/
theorem test_tst_1 : registers (step (small [(0x0100, 0x4D)] 0x00 0x00 0x0000 0x01FF 0x0100 0xC3)) =
    some [0x00, 0x00, 0x0000, 0x01FF, 0x0101, 0xC4] := by decide

/-- TV-TST-4: TST $00,X. -/
theorem test_tst_4 : registers (step (small [(0x0100, 0x6D), (0x0101, 0x00), (0x0042,
      0x90)] 0x00 0x00 0x0042 0x01FF 0x0100 0xC0)) =
    some [0x00, 0x00, 0x0042, 0x01FF, 0x0102, 0xC8] := by decide

/-- TV-AND-1: ANDA #$0F. -/
theorem test_and_1 : registers (step (small [(0x0100, 0x84), (0x0101, 0x0F)] 0xA5 0x00 0x0000 0x01FF 0x0100 0xC3)) =
    some [0x05, 0x00, 0x0000, 0x01FF, 0x0102, 0xC1] := by decide

/-- TV-AND-3: ANDA $20. -/
theorem test_and_3 : registers (step (small [(0x0100, 0x94), (0x0101, 0x20), (0x0020,
      0x80)] 0xFF 0x00 0x0000 0x01FF 0x0100 0xC0)) =
    some [0x80, 0x00, 0x0000, 0x01FF, 0x0102, 0xC8] := by decide

/-- TV-BIT-1: BITA #$80. -/
theorem test_bit_1 : registers (step (small [(0x0100, 0x85), (0x0101, 0x80)] 0x80 0x00 0x0000 0x01FF 0x0100 0xC0)) =
    some [0x80, 0x00, 0x0000, 0x01FF, 0x0102, 0xC8] := by decide

/-- TV-BIT-2: BITB $8005. -/
theorem test_bit_2 : registers (step (small [(0x0100, 0xF5), (0x0101, 0x80), (0x0102, 0x05), (0x8005,
      0x80)] 0x00 0x01 0x0000 0x01FF 0x0100 0xC0)) =
    some [0x00, 0x01, 0x0000, 0x01FF, 0x0103, 0xC4] := by decide

/-- TV-ORA-1: ORAA #$80. -/
theorem test_ora_1 : registers (step (small [(0x0100, 0x8A), (0x0101, 0x80)] 0x01 0x00 0x0000 0x01FF 0x0100 0xC2)) =
    some [0x81, 0x00, 0x0000, 0x01FF, 0x0102, 0xC8] := by decide

/-- TV-ORA-3: ORAB $05,X. -/
theorem test_ora_3 : registers (step (small [(0x0100, 0xEA), (0x0101, 0x05), (0x1005,
      0x30)] 0x00 0x0F 0x1000 0x01FF 0x0100 0xC0)) =
    some [0x00, 0x3F, 0x1000, 0x01FF, 0x0102, 0xC0] := by decide

/-- TV-EOR-1: EORA #$FF. -/
theorem test_eor_1 : registers (step (small [(0x0100, 0x88), (0x0101, 0xFF)] 0x55 0x00 0x0000 0x01FF 0x0100 0xC0)) =
    some [0xAA, 0x00, 0x0000, 0x01FF, 0x0102, 0xC8] := by decide

/-- TV-EOR-2: EORB #$3C. -/
theorem test_eor_2 : registers (step (small [(0x0100, 0xC8), (0x0101, 0x3C)] 0x00 0x3C 0x0000 0x01FF 0x0100 0xC9)) =
    some [0x00, 0x00, 0x0000, 0x01FF, 0x0102, 0xC5] := by decide

/-- TV-COM-2: COMB. -/
theorem test_com_2 : registers (step (small [(0x0100, 0x53)] 0x00 0xFF 0x0000 0x01FF 0x0100 0xC2)) =
    some [0x00, 0x00, 0x0000, 0x01FF, 0x0101, 0xC5] := by decide

/-- TV-COM-3: COM $0050. -/
theorem test_com_3 :
    let out := step (small [(0x0100, 0x73), (0x0101, 0x00), (0x0102, 0x50), (0x0050,
      0xA5)] 0x00 0x00 0x0000 0x01FF 0x0100 0xC0)
    registers out = some [0x00, 0x00, 0x0000, 0x01FF, 0x0103, 0xC1] ∧
      bytes out [0x0050] = [0x5A] := by decide

/-- TV-ROL-2: ROLA. -/
theorem test_rol_2 : registers (step (small [(0x0100, 0x49)] 0x40 0x00 0x0000 0x01FF 0x0100 0xC1)) =
    some [0x81, 0x00, 0x0000, 0x01FF, 0x0101, 0xCA] := by decide

/-- TV-ROL-4: ROL $0060. -/
theorem test_rol_4 :
    let out := step (small [(0x0100, 0x79), (0x0101, 0x00), (0x0102, 0x60), (0x0060,
      0x01)] 0x00 0x00 0x0000 0x01FF 0x0100 0xC0)
    registers out = some [0x00, 0x00, 0x0000, 0x01FF, 0x0103, 0xC0] ∧
      bytes out [0x0060] = [0x02] := by decide

/-- TV-ROR-2: RORA. -/
theorem test_ror_2 : registers (step (small [(0x0100, 0x46)] 0x00 0x00 0x0000 0x01FF 0x0100 0xC1)) =
    some [0x80, 0x00, 0x0000, 0x01FF, 0x0101, 0xCA] := by decide

/-- TV-ROR-4: ROR $00,X. -/
theorem test_ror_4 :
    let out := step (small [(0x0100, 0x66), (0x0101, 0x00), (0x0061, 0xFE)] 0x00 0x00 0x0061 0x01FF 0x0100 0xC1)
    registers out = some [0x00, 0x00, 0x0061, 0x01FF, 0x0102, 0xCA] ∧
      bytes out [0x0061] = [0xFF] := by decide

/-- TV-ASL-1: ASLA. -/
theorem test_asl_1 : registers (step (small [(0x0100, 0x48)] 0x40 0x00 0x0000 0x01FF 0x0100 0xC0)) =
    some [0x80, 0x00, 0x0000, 0x01FF, 0x0101, 0xCA] := by decide

/-- TV-ASL-4: ASL $02,X. -/
theorem test_asl_4 :
    let out := step (small [(0x0100, 0x68), (0x0101, 0x02), (0x0062, 0x55)] 0x00 0x00 0x0060 0x01FF 0x0100 0xC0)
    registers out = some [0x00, 0x00, 0x0060, 0x01FF, 0x0102, 0xCA] ∧
      bytes out [0x0062] = [0xAA] := by decide

/-- TV-ASR-1: ASRA. -/
theorem test_asr_1 : registers (step (small [(0x0100, 0x47)] 0x81 0x00 0x0000 0x01FF 0x0100 0xC0)) =
    some [0xC0, 0x00, 0x0000, 0x01FF, 0x0101, 0xC9] := by decide

/-- TV-ASR-4: ASR $0063. -/
theorem test_asr_4 :
    let out := step (small [(0x0100, 0x77), (0x0101, 0x00), (0x0102, 0x63), (0x0063,
      0x7E)] 0x00 0x00 0x0000 0x01FF 0x0100 0xC0)
    registers out = some [0x00, 0x00, 0x0000, 0x01FF, 0x0103, 0xC0] ∧
      bytes out [0x0063] = [0x3F] := by decide

/-- TV-LSR-1: LSRA. -/
theorem test_lsr_1 : registers (step (small [(0x0100, 0x44)] 0x81 0x00 0x0000 0x01FF 0x0100 0xC8)) =
    some [0x40, 0x00, 0x0000, 0x01FF, 0x0101, 0xC3] := by decide

/-- TV-LSR-3: LSR $00,X. -/
theorem test_lsr_3 :
    let out := step (small [(0x0100, 0x64), (0x0101, 0x00), (0x0064, 0xFE)] 0x00 0x00 0x0064 0x01FF 0x0100 0xC0)
    registers out = some [0x00, 0x00, 0x0064, 0x01FF, 0x0102, 0xC0] ∧
      bytes out [0x0064] = [0x7F] := by decide

/-- TV-LDA-4: LDAB $FF,X. -/
theorem test_lda_4 : registers (step (small [(0x0300, 0xE6), (0x0301, 0xFF), (0x0200,
      0x42)] 0x00 0x00 0x0101 0x01FF 0x0300 0xC0)) =
    some [0x00, 0x42, 0x0101, 0x01FF, 0x0302, 0xC0] := by decide

/-- TV-LDA-6: LDAA $02,X. -/
theorem test_lda_6 : registers (step (small [(0x0100, 0xA6), (0x0101, 0x02), (0x0001,
      0x33)] 0x00 0x00 0xFFFF 0x01FF 0x0100 0xC0)) =
    some [0x33, 0x00, 0xFFFF, 0x01FF, 0x0102, 0xC0] := by decide

/-- TV-STA-2: STAB $00,X. -/
theorem test_sta_2 :
    let out := step (small [(0x0100, 0xE7), (0x0101, 0x00), (0x0123, 0xEE)] 0x00 0x00 0x0123 0x01FF 0x0100 0xC8)
    registers out = some [0x00, 0x00, 0x0123, 0x01FF, 0x0102, 0xC4] ∧
      bytes out [0x0123] = [0x00] := by decide

/-- TV-STA-3: STAA $0200. -/
theorem test_sta_3 :
    let out := step (small [(0x0100, 0xB7), (0x0101, 0x02), (0x0102, 0x00)] 0x7F 0x00 0x0000 0x01FF 0x0100 0xC0)
    registers out = some [0x7F, 0x00, 0x0000, 0x01FF, 0x0103, 0xC0] ∧
      bytes out [0x0200] = [0x7F] := by decide

/-- TV-PSH-1: PSHA. -/
theorem test_psh_1 :
    let out := step (small [(0x0100, 0x36)] 0xAB 0x00 0x0000 0x01FF 0x0100 0xCF)
    registers out = some [0xAB, 0x00, 0x0000, 0x01FE, 0x0101, 0xCF] ∧
      bytes out [0x01FF] = [0xAB] := by decide

/-- TV-PSH-2: PSHB. -/
theorem test_psh_2 :
    let out := step (small [(0x0100, 0x37)] 0x00 0xCD 0x0000 0x0000 0x0100 0xC0)
    registers out = some [0x00, 0xCD, 0x0000, 0xFFFF, 0x0101, 0xC0] ∧
      bytes out [0x0000] = [0xCD] := by decide

/-- TV-PUL-1: PULA. -/
theorem test_pul_1 : registers (step (small [(0x0100, 0x32), (0x01FF, 0x00)] 0x00 0x00 0x0000 0x01FE 0x0100 0xC8)) =
    some [0x00, 0x00, 0x0000, 0x01FF, 0x0101, 0xC8] := by decide

/-- TV-PUL-2: PULB. -/
theorem test_pul_2 : registers (step (small [(0x0200, 0x33), (0x0000, 0x5A)] 0x00 0x00 0x0000 0xFFFF 0x0200 0xC0)) =
    some [0x00, 0x5A, 0x0000, 0x0000, 0x0201, 0xC0] := by decide

/-- TV-TAB-1: TAB. -/
theorem test_tab_1 : registers (step (small [(0x0100, 0x16)] 0x80 0x01 0x0000 0x01FF 0x0100 0xC3)) =
    some [0x80, 0x80, 0x0000, 0x01FF, 0x0101, 0xC9] := by decide

/-- TV-TBA-1: TBA. -/
theorem test_tba_1 : registers (step (small [(0x0100, 0x17)] 0x55 0x00 0x0000 0x01FF 0x0100 0xC0)) =
    some [0x00, 0x00, 0x0000, 0x01FF, 0x0101, 0xC4] := by decide

/-- TV-CPX-1: CPX #$1234. -/
theorem test_cpx_1 : registers (step (small [(0x0100, 0x8C), (0x0101, 0x12), (0x0102,
      0x34)] 0x00 0x00 0x1234 0x01FF 0x0100 0xC1)) =
    some [0x00, 0x00, 0x1234, 0x01FF, 0x0103, 0xC5] := by decide

/-- TV-CPX-4: CPX #$7F00. -/
theorem test_cpx_4 : registers (step (small [(0x0100, 0x8C), (0x0101, 0x7F), (0x0102,
      0x00)] 0x00 0x00 0x8000 0x01FF 0x0100 0xC0)) =
    some [0x00, 0x00, 0x8000, 0x01FF, 0x0103, 0xC2] := by decide

/-- TV-DEX-1: DEX. -/
theorem test_dex_1 : registers (step (small [(0x0100, 0x09)] 0x00 0x00 0x0001 0x01FF 0x0100 0xCB)) =
    some [0x00, 0x00, 0x0000, 0x01FF, 0x0101, 0xCF] := by decide

/-- TV-DEX-2: DEX. -/
theorem test_dex_2 : registers (step (small [(0x0100, 0x09)] 0x00 0x00 0x0000 0x01FF 0x0100 0xC4)) =
    some [0x00, 0x00, 0xFFFF, 0x01FF, 0x0101, 0xC0] := by decide

/-- TV-INX-1: INX. -/
theorem test_inx_1 : registers (step (small [(0x0100, 0x08)] 0x00 0x00 0xFFFF 0x01FF 0x0100 0xC0)) =
    some [0x00, 0x00, 0x0000, 0x01FF, 0x0101, 0xC4] := by decide

/-- TV-INX-2: INX. -/
theorem test_inx_2 : registers (step (small [(0x0100, 0x08)] 0x00 0x00 0x00FF 0x01FF 0x0100 0xC4)) =
    some [0x00, 0x00, 0x0100, 0x01FF, 0x0101, 0xC0] := by decide

/-- TV-DES-1: DES. -/
theorem test_des_1 : registers (step (small [(0x0100, 0x34)] 0x00 0x00 0x0000 0x0000 0x0100 0xC4)) =
    some [0x00, 0x00, 0x0000, 0xFFFF, 0x0101, 0xC4] := by decide

/-- TV-INS-1: INS. -/
theorem test_ins_1 : registers (step (small [(0x0100, 0x31)] 0x00 0x00 0x0000 0xFFFF 0x0100 0xC0)) =
    some [0x00, 0x00, 0x0000, 0x0000, 0x0101, 0xC0] := by decide

/-- TV-LDX-5: LDX $01,X. -/
theorem test_ldx_5 : registers (step (small [(0x0100, 0xEE), (0x0101, 0x01), (0x0021, 0xAB), (0x0022,
      0xCD)] 0x00 0x00 0x0020 0x01FF 0x0100 0xC0)) =
    some [0x00, 0x00, 0xABCD, 0x01FF, 0x0102, 0xC8] := by decide

/-- TV-LDX-6: LDX $FFFF. -/
theorem test_ldx_6 : registers (step (small [(0x0100, 0xFE), (0x0101, 0xFF), (0x0102, 0xFF), (0x0000, 0x34), (0xFFFF,
      0x12)] 0x00 0x00 0x0000 0x01FF 0x0100 0xC0)) =
    some [0x00, 0x00, 0x1234, 0x01FF, 0x0103, 0xC0] := by decide

/-- TV-LDS-3: LDS $30. -/
theorem test_lds_3 : registers (step (small [(0x0100, 0x9E), (0x0101, 0x30), (0x0030, 0x00), (0x0031,
      0x00)] 0x00 0x00 0x0000 0x01FF 0x0100 0xC0)) =
    some [0x00, 0x00, 0x0000, 0x0000, 0x0102, 0xC4] := by decide

/-- TV-LDS-4: LDS $00,X. -/
theorem test_lds_4 : registers (step (small [(0x0100, 0xAE), (0x0101, 0x00), (0x0030, 0x01), (0x0031,
      0xFF)] 0x00 0x00 0x0030 0x01FF 0x0100 0xC0)) =
    some [0x00, 0x00, 0x0030, 0x01FF, 0x0102, 0xC0] := by decide

/-- TV-STX-1: STX $20. -/
theorem test_stx_1 :
    let out := step (small [(0x0100, 0xDF), (0x0101, 0x20)] 0x00 0x00 0x8001 0x01FF 0x0100 0xC3)
    registers out = some [0x00, 0x00, 0x8001, 0x01FF, 0x0102, 0xC9] ∧
      bytes out [0x0020, 0x0021] = [0x80, 0x01] := by decide

/-- TV-STX-2: STX $04,X. -/
theorem test_stx_2 :
    let out := step (small [(0x0100, 0xEF), (0x0101, 0x04), (0x0004, 0xFF), (0x0005,
      0xFF)] 0x00 0x00 0x0000 0x01FF 0x0100 0xC0)
    registers out = some [0x00, 0x00, 0x0000, 0x01FF, 0x0102, 0xC4] ∧
      bytes out [0x0004, 0x0005] = [0x00, 0x00] := by decide

/-- TV-STS-2: STS $0220. -/
theorem test_sts_2 :
    let out := step (small [(0x0100, 0xBF), (0x0101, 0x02), (0x0102, 0x20)] 0x00 0x00 0x0000 0xFFFE 0x0100 0xC0)
    registers out = some [0x00, 0x00, 0x0000, 0xFFFE, 0x0103, 0xC8] ∧
      bytes out [0x0220, 0x0221] = [0xFF, 0xFE] := by decide

/-- TV-STS-3: STS $10,X. -/
theorem test_sts_3 :
    let out := step (small [(0x0100, 0xAF), (0x0101, 0x10), (0x0210, 0x11), (0x0211,
      0x22)] 0x00 0x00 0x0200 0x0000 0x0100 0xC0)
    registers out = some [0x00, 0x00, 0x0200, 0x0000, 0x0102, 0xC4] ∧
      bytes out [0x0210, 0x0211] = [0x00, 0x00] := by decide

/-- TV-TXS-1: TXS. -/
theorem test_txs_1 : registers (step (small [(0x0100, 0x35)] 0x00 0x00 0x0080 0x01FF 0x0100 0xC4)) =
    some [0x00, 0x00, 0x0080, 0x007F, 0x0101, 0xC4] := by decide

/-- TV-TXS-2: TXS. -/
theorem test_txs_2 : registers (step (small [(0x0100, 0x35)] 0x00 0x00 0x0000 0x01FF 0x0100 0xC0)) =
    some [0x00, 0x00, 0x0000, 0xFFFF, 0x0101, 0xC0] := by decide

/-- TV-TSX-1: TSX. -/
theorem test_tsx_1 : registers (step (small [(0x0100, 0x30)] 0x00 0x00 0x0000 0x007F 0x0100 0xC0)) =
    some [0x00, 0x00, 0x0080, 0x007F, 0x0101, 0xC0] := by decide

/-- TV-TSX-2: TSX. -/
theorem test_tsx_2 : registers (step (small [(0x0100, 0x30)] 0x00 0x00 0x1111 0xFFFF 0x0100 0xC0)) =
    some [0x00, 0x00, 0x0000, 0xFFFF, 0x0101, 0xC0] := by decide

/-- TV-BRA-1: BRA $0112. -/
theorem test_bra_1 : registers (step (small [(0x0100, 0x20), (0x0101, 0x10)] 0x00 0x00 0x0000 0x01FF 0x0100 0xC0)) =
    some [0x00, 0x00, 0x0000, 0x01FF, 0x0112, 0xC0] := by decide

/-- TV-BCC-1: BCC $0112. -/
theorem test_bcc_1 : registers (step (small [(0x0100, 0x24), (0x0101, 0x10)] 0x00 0x00 0x0000 0x01FF 0x0100 0xC0)) =
    some [0x00, 0x00, 0x0000, 0x01FF, 0x0112, 0xC0] := by decide

/-- TV-BCC-2: BCC $0112. -/
theorem test_bcc_2 : registers (step (small [(0x0100, 0x24), (0x0101, 0x10)] 0x00 0x00 0x0000 0x01FF 0x0100 0xC1)) =
    some [0x00, 0x00, 0x0000, 0x01FF, 0x0102, 0xC1] := by decide

/-- TV-BCS-1: BCS $0112. -/
theorem test_bcs_1 : registers (step (small [(0x0100, 0x25), (0x0101, 0x10)] 0x00 0x00 0x0000 0x01FF 0x0100 0xC1)) =
    some [0x00, 0x00, 0x0000, 0x01FF, 0x0112, 0xC1] := by decide

/-- TV-BCS-2: BCS $0112. -/
theorem test_bcs_2 : registers (step (small [(0x0100, 0x25), (0x0101, 0x10)] 0x00 0x00 0x0000 0x01FF 0x0100 0xC0)) =
    some [0x00, 0x00, 0x0000, 0x01FF, 0x0102, 0xC0] := by decide

/-- TV-BEQ-1: BEQ $0112. -/
theorem test_beq_1 : registers (step (small [(0x0100, 0x27), (0x0101, 0x10)] 0x00 0x00 0x0000 0x01FF 0x0100 0xC4)) =
    some [0x00, 0x00, 0x0000, 0x01FF, 0x0112, 0xC4] := by decide

/-- TV-BEQ-2: BEQ $0112. -/
theorem test_beq_2 : registers (step (small [(0x0100, 0x27), (0x0101, 0x10)] 0x00 0x00 0x0000 0x01FF 0x0100 0xC0)) =
    some [0x00, 0x00, 0x0000, 0x01FF, 0x0102, 0xC0] := by decide

/-- TV-BNE-1: BNE $0112. -/
theorem test_bne_1 : registers (step (small [(0x0100, 0x26), (0x0101, 0x10)] 0x00 0x00 0x0000 0x01FF 0x0100 0xC0)) =
    some [0x00, 0x00, 0x0000, 0x01FF, 0x0112, 0xC0] := by decide

/-- TV-BNE-2: BNE $0112. -/
theorem test_bne_2 : registers (step (small [(0x0100, 0x26), (0x0101, 0x10)] 0x00 0x00 0x0000 0x01FF 0x0100 0xC4)) =
    some [0x00, 0x00, 0x0000, 0x01FF, 0x0102, 0xC4] := by decide

/-- TV-BVC-1: BVC $0112. -/
theorem test_bvc_1 : registers (step (small [(0x0100, 0x28), (0x0101, 0x10)] 0x00 0x00 0x0000 0x01FF 0x0100 0xC0)) =
    some [0x00, 0x00, 0x0000, 0x01FF, 0x0112, 0xC0] := by decide

/-- TV-BVC-2: BVC $0112. -/
theorem test_bvc_2 : registers (step (small [(0x0100, 0x28), (0x0101, 0x10)] 0x00 0x00 0x0000 0x01FF 0x0100 0xC2)) =
    some [0x00, 0x00, 0x0000, 0x01FF, 0x0102, 0xC2] := by decide

/-- TV-BVS-1: BVS $0112. -/
theorem test_bvs_1 : registers (step (small [(0x0100, 0x29), (0x0101, 0x10)] 0x00 0x00 0x0000 0x01FF 0x0100 0xC2)) =
    some [0x00, 0x00, 0x0000, 0x01FF, 0x0112, 0xC2] := by decide

/-- TV-BVS-2: BVS $0112. -/
theorem test_bvs_2 : registers (step (small [(0x0100, 0x29), (0x0101, 0x10)] 0x00 0x00 0x0000 0x01FF 0x0100 0xC0)) =
    some [0x00, 0x00, 0x0000, 0x01FF, 0x0102, 0xC0] := by decide

/-- TV-BPL-1: BPL $0112. -/
theorem test_bpl_1 : registers (step (small [(0x0100, 0x2A), (0x0101, 0x10)] 0x00 0x00 0x0000 0x01FF 0x0100 0xC0)) =
    some [0x00, 0x00, 0x0000, 0x01FF, 0x0112, 0xC0] := by decide

/-- TV-BPL-2: BPL $0112. -/
theorem test_bpl_2 : registers (step (small [(0x0100, 0x2A), (0x0101, 0x10)] 0x00 0x00 0x0000 0x01FF 0x0100 0xC8)) =
    some [0x00, 0x00, 0x0000, 0x01FF, 0x0102, 0xC8] := by decide

/-- TV-BMI-1: BMI $0112. -/
theorem test_bmi_1 : registers (step (small [(0x0100, 0x2B), (0x0101, 0x10)] 0x00 0x00 0x0000 0x01FF 0x0100 0xC8)) =
    some [0x00, 0x00, 0x0000, 0x01FF, 0x0112, 0xC8] := by decide

/-- TV-BMI-2: BMI $0112. -/
theorem test_bmi_2 : registers (step (small [(0x0100, 0x2B), (0x0101, 0x10)] 0x00 0x00 0x0000 0x01FF 0x0100 0xC0)) =
    some [0x00, 0x00, 0x0000, 0x01FF, 0x0102, 0xC0] := by decide

/-- TV-BGE-2: BGE $0112. -/
theorem test_bge_2 : registers (step (small [(0x0100, 0x2C), (0x0101, 0x10)] 0x00 0x00 0x0000 0x01FF 0x0100 0xCA)) =
    some [0x00, 0x00, 0x0000, 0x01FF, 0x0112, 0xCA] := by decide

/-- TV-BGE-4: BGE $0112. -/
theorem test_bge_4 : registers (step (small [(0x0100, 0x2C), (0x0101, 0x10)] 0x00 0x00 0x0000 0x01FF 0x0100 0xC2)) =
    some [0x00, 0x00, 0x0000, 0x01FF, 0x0102, 0xC2] := by decide

/-- TV-BLT-2: BLT $0112. -/
theorem test_blt_2 : registers (step (small [(0x0100, 0x2D), (0x0101, 0x10)] 0x00 0x00 0x0000 0x01FF 0x0100 0xC2)) =
    some [0x00, 0x00, 0x0000, 0x01FF, 0x0112, 0xC2] := by decide

/-- TV-BLT-3: BLT $0112. -/
theorem test_blt_3 : registers (step (small [(0x0100, 0x2D), (0x0101, 0x10)] 0x00 0x00 0x0000 0x01FF 0x0100 0xCA)) =
    some [0x00, 0x00, 0x0000, 0x01FF, 0x0102, 0xCA] := by decide

/-- TV-BGT-2: BGT $0112. -/
theorem test_bgt_2 : registers (step (small [(0x0100, 0x2E), (0x0101, 0x10)] 0x00 0x00 0x0000 0x01FF 0x0100 0xCA)) =
    some [0x00, 0x00, 0x0000, 0x01FF, 0x0112, 0xCA] := by decide

/-- TV-BGT-3: BGT $0112. -/
theorem test_bgt_3 : registers (step (small [(0x0100, 0x2E), (0x0101, 0x10)] 0x00 0x00 0x0000 0x01FF 0x0100 0xC4)) =
    some [0x00, 0x00, 0x0000, 0x01FF, 0x0102, 0xC4] := by decide

/-- TV-BLE-3: BLE $0112. -/
theorem test_ble_3 : registers (step (small [(0x0100, 0x2F), (0x0101, 0x10)] 0x00 0x00 0x0000 0x01FF 0x0100 0xC2)) =
    some [0x00, 0x00, 0x0000, 0x01FF, 0x0112, 0xC2] := by decide

/-- TV-BLE-5: BLE $0112. -/
theorem test_ble_5 : registers (step (small [(0x0100, 0x2F), (0x0101, 0x10)] 0x00 0x00 0x0000 0x01FF 0x0100 0xCA)) =
    some [0x00, 0x00, 0x0000, 0x01FF, 0x0102, 0xCA] := by decide

/-- TV-BHI-1: BHI $0112. -/
theorem test_bhi_1 : registers (step (small [(0x0100, 0x22), (0x0101, 0x10)] 0x00 0x00 0x0000 0x01FF 0x0100 0xC0)) =
    some [0x00, 0x00, 0x0000, 0x01FF, 0x0112, 0xC0] := by decide

/-- TV-BHI-3: BHI $0112. -/
theorem test_bhi_3 : registers (step (small [(0x0100, 0x22), (0x0101, 0x10)] 0x00 0x00 0x0000 0x01FF 0x0100 0xC4)) =
    some [0x00, 0x00, 0x0000, 0x01FF, 0x0102, 0xC4] := by decide

/-- TV-BLS-1: BLS $0112. -/
theorem test_bls_1 : registers (step (small [(0x0100, 0x23), (0x0101, 0x10)] 0x00 0x00 0x0000 0x01FF 0x0100 0xC1)) =
    some [0x00, 0x00, 0x0000, 0x01FF, 0x0112, 0xC1] := by decide

/-- TV-BLS-4: BLS $0112. -/
theorem test_bls_4 : registers (step (small [(0x0100, 0x23), (0x0101, 0x10)] 0x00 0x00 0x0000 0x01FF 0x0100 0xC0)) =
    some [0x00, 0x00, 0x0000, 0x01FF, 0x0102, 0xC0] := by decide

/-- TV-BR-3: BRA $0082. -/
theorem test_br_3 : registers (step (small [(0x0100, 0x20), (0x0101, 0x80)] 0x00 0x00 0x0000 0x01FF 0x0100 0xC0)) =
    some [0x00, 0x00, 0x0000, 0x01FF, 0x0082, 0xC0] := by decide

/-- TV-BR-6: BRA $0000. -/
theorem test_br_6 : registers (step (small [(0xFFFE, 0x20), (0xFFFF, 0x00)] 0x00 0x00 0x0000 0x01FF 0xFFFE 0xC0)) =
    some [0x00, 0x00, 0x0000, 0x01FF, 0x0000, 0xC0] := by decide

/-- TV-BSR-1: BSR $0122. -/
theorem test_bsr_1 :
    let out := step (small [(0x0100, 0x8D), (0x0101, 0x20)] 0x00 0x00 0x0000 0x01FF 0x0100 0xCF)
    registers out = some [0x00, 0x00, 0x0000, 0x01FD, 0x0122, 0xCF] ∧
      bytes out [0x01FE, 0x01FF] = [0x01, 0x02] := by decide

/-- TV-BSR-3: BSR $0202. -/
theorem test_bsr_3 :
    let out := step (small [(0x0200, 0x8D), (0x0201, 0x00)] 0x00 0x00 0x0000 0x0000 0x0200 0xC0)
    registers out = some [0x00, 0x00, 0x0000, 0xFFFE, 0x0202, 0xC0] ∧
      bytes out [0x0000, 0xFFFF] = [0x02, 0x02] := by decide

/-- TV-JMP-1: JMP $C000. -/
theorem test_jmp_1 : registers (step (small [(0x0100, 0x7E), (0x0101, 0xC0), (0x0102,
      0x00)] 0x00 0x00 0x0000 0x01FF 0x0100 0xC0)) =
    some [0x00, 0x00, 0x0000, 0x01FF, 0xC000, 0xC0] := by decide

/-- TV-JMP-3: JMP $FF,X. -/
theorem test_jmp_3 : registers (step (small [(0x0100, 0x6E), (0x0101, 0xFF)] 0x00 0x00 0xFF01 0x01FF 0x0100 0xC0)) =
    some [0x00, 0x00, 0xFF01, 0x01FF, 0x0000, 0xC0] := by decide

/-- TV-JSR-1: JSR $C000. -/
theorem test_jsr_1 :
    let out := step (small [(0x0100, 0xBD), (0x0101, 0xC0), (0x0102, 0x00)] 0x00 0x00 0x0000 0x01FF 0x0100 0xC0)
    registers out = some [0x00, 0x00, 0x0000, 0x01FD, 0xC000, 0xC0] ∧
      bytes out [0x01FE, 0x01FF] = [0x01, 0x03] := by decide

/-- TV-JSR-2: JSR $00,X. -/
theorem test_jsr_2 :
    let out := step (small [(0x0100, 0xAD), (0x0101, 0x00)] 0x00 0x00 0x2000 0x01FF 0x0100 0xC0)
    registers out = some [0x00, 0x00, 0x2000, 0x01FD, 0x2000, 0xC0] ∧
      bytes out [0x01FE, 0x01FF] = [0x01, 0x02] := by decide

/-- TV-RTS-1: RTS. -/
theorem test_rts_1 : registers (step (small [(0x0100, 0x39), (0x01FE, 0x01), (0x01FF,
      0x03)] 0x00 0x00 0x0000 0x01FD 0x0100 0xC0)) =
    some [0x00, 0x00, 0x0000, 0x01FF, 0x0103, 0xC0] := by decide

/-- TV-NOP-1: NOP. -/
theorem test_nop_1 : registers (step (small [(0x0100, 0x01)] 0x12 0x34 0x5678 0x01FF 0x0100 0xFF)) =
    some [0x12, 0x34, 0x5678, 0x01FF, 0x0101, 0xFF] := by decide

/-- TV-SWI-1: SWI. -/
theorem test_swi_1 :
    let out := step (small [(0x0100, 0x3F), (0xFFF8, 0xE0), (0xFFF9, 0x00), (0xFFFA, 0xE1), (0xFFFB, 0x00), (0xFFFC,
      0xE2), (0xFFFD, 0x00), (0xFFFE, 0xE3), (0xFFFF, 0x00)] 0xAA 0xBB 0x1234 0x01FF 0x0100 0xE5)
    registers out = some [0xAA, 0xBB, 0x1234, 0x01F8, 0xE100, 0xF5] ∧
      bytes out [0x01F9, 0x01FA, 0x01FB, 0x01FC, 0x01FD, 0x01FE, 0x01FF] = [0xE5, 0xBB, 0xAA, 0x12, 0x34, 0x01,
      0x01] := by decide

/-- TV-SWI-2: SWI. -/
theorem test_swi_2 :
    let out := step (small [(0x0200, 0x3F), (0xFFF8, 0xE0), (0xFFF9, 0x00), (0xFFFA, 0xE1), (0xFFFB, 0x00), (0xFFFC,
      0xE2), (0xFFFD, 0x00), (0xFFFE, 0xE3), (0xFFFF, 0x00)] 0x01 0x02 0x0003 0x0003 0x0200 0xD0)
    registers out = some [0x01, 0x02, 0x0003, 0xFFFC, 0xE100, 0xD0] ∧
      bytes out [0x0001, 0x0002, 0x0003, 0xFFFD, 0xFFFE, 0xFFFF] = [0x03, 0x02, 0x01, 0xD0, 0x02, 0x01] := by decide

/-- TV-RTI-1: RTI. -/
theorem test_rti_1 : registers (step (small [(0xE100, 0x3B), (0x01F9, 0xC5), (0x01FA, 0xBB), (0x01FB, 0xAA), (0x01FC,
      0x12), (0x01FD, 0x34), (0x01FE, 0x01), (0x01FF, 0x01)] 0x00 0x00 0x0000 0x01F8 0xE100 0xD0)) =
    some [0xAA, 0xBB, 0x1234, 0x01FF, 0x0101, 0xC5] := by decide

/-- TV-RTI-2: RTI. -/
theorem test_rti_2 : registers (step (small [(0xE100, 0x3B), (0x01F9, 0x3F), (0x01FA, 0x00), (0x01FB, 0x00), (0x01FC,
      0x00), (0x01FD, 0x00), (0x01FE, 0xC0), (0x01FF, 0x00)] 0x00 0x00 0x0000 0x01F8 0xE100 0xC0)) =
    some [0x00, 0x00, 0x0000, 0x01FF, 0xC000, 0xFF] := by decide

/-- TV-WAI-1: WAI. -/
theorem test_wai_1 :
    let out := step (small [(0x0100, 0x3E), (0xFFF8, 0xE0), (0xFFF9, 0x00), (0xFFFA, 0xE1), (0xFFFB, 0x00), (0xFFFC,
      0xE2), (0xFFFD, 0x00), (0xFFFE, 0xE3), (0xFFFF, 0x00)] 0x11 0x22 0x3344 0x01FF 0x0100 0xC1)
    registers out = some [0x11, 0x22, 0x3344, 0x01F8, 0x0101, 0xC1] ∧
      bytes out [0x01F9, 0x01FA, 0x01FB, 0x01FC, 0x01FD, 0x01FE, 0x01FF] = [0xC1, 0x22, 0x11, 0x33, 0x44, 0x01,
      0x01] := by decide

/-- TV-CLC-1: CLC. -/
theorem test_clc_1 : registers (step (small [(0x0100, 0x0C)] 0x00 0x00 0x0000 0x01FF 0x0100 0xFF)) =
    some [0x00, 0x00, 0x0000, 0x01FF, 0x0101, 0xFE] := by decide

/-- TV-CLI-1: CLI. -/
theorem test_cli_1 : registers (step (small [(0x0100, 0x0E)] 0x00 0x00 0x0000 0x01FF 0x0100 0xFF)) =
    some [0x00, 0x00, 0x0000, 0x01FF, 0x0101, 0xEF] := by decide

/-- TV-CLV-1: CLV. -/
theorem test_clv_1 : registers (step (small [(0x0100, 0x0A)] 0x00 0x00 0x0000 0x01FF 0x0100 0xFF)) =
    some [0x00, 0x00, 0x0000, 0x01FF, 0x0101, 0xFD] := by decide

/-- TV-SEC-1: SEC. -/
theorem test_sec_1 : registers (step (small [(0x0100, 0x0D)] 0x00 0x00 0x0000 0x01FF 0x0100 0xC0)) =
    some [0x00, 0x00, 0x0000, 0x01FF, 0x0101, 0xC1] := by decide

/-- TV-SEI-1: SEI. -/
theorem test_sei_1 : registers (step (small [(0x0100, 0x0F)] 0x00 0x00 0x0000 0x01FF 0x0100 0xC0)) =
    some [0x00, 0x00, 0x0000, 0x01FF, 0x0101, 0xD0] := by decide

/-- TV-SEV-1: SEV. -/
theorem test_sev_1 : registers (step (small [(0x0100, 0x0B)] 0x00 0x00 0x0000 0x01FF 0x0100 0xC0)) =
    some [0x00, 0x00, 0x0000, 0x01FF, 0x0101, 0xC2] := by decide

/-- TV-TAP-1: TAP. -/
theorem test_tap_1 : registers (step (small [(0x0100, 0x06)] 0xFF 0x00 0x0000 0x01FF 0x0100 0xC0)) =
    some [0xFF, 0x00, 0x0000, 0x01FF, 0x0101, 0xFF] := by decide

/-- TV-TAP-3: TAP. -/
theorem test_tap_3 : registers (step (small [(0x0100, 0x06)] 0x15 0x00 0x0000 0x01FF 0x0100 0xC0)) =
    some [0x15, 0x00, 0x0000, 0x01FF, 0x0101, 0xD5] := by decide

/-- TV-TPA-2: TPA. -/
theorem test_tpa_2 : registers (step (small [(0x0100, 0x07)] 0x00 0x00 0x0000 0x01FF 0x0100 0xFF)) =
    some [0xFF, 0x00, 0x0000, 0x01FF, 0x0101, 0xFF] := by decide

/-- TV-TPA-3: TPA. -/
theorem test_tpa_3 : registers (step (small [(0x0100, 0x07)] 0xFF 0x00 0x0000 0x01FF 0x0100 0xC9)) =
    some [0xC9, 0x00, 0x0000, 0x01FF, 0x0101, 0xC9] := by decide

/-- TV-DAA-2: 9A becomes 00 with C; nothing is said of V. -/
theorem test_daa_2 :
    let r := decimalAdjust (Config.freeBit 0) 0x9A (Flags.ofByte 0xC0)
    r.1 = 0x00 ∧ r.2.c = true ∧ r.2.n = false ∧ r.2.z = true := by decide

/-- TV-DAA-4: 20 with C, left by 90 + 90, becomes 80 and C stays. -/
theorem test_daa_4 :
    let r := decimalAdjust (Config.freeBit 0) 0x20 (Flags.ofByte 0xC3)
    r.1 = 0x80 ∧ r.2.c = true ∧ r.2.n = true ∧ r.2.z = false := by decide

/-! ### The interrupts, the run states and the refusal: vectors of 95_test_vectors.md 2.13 -/

/-- The bytes of the vectors that the vector file calls VEC. -/
def vec : List (Nat × Nat) := [(0xFFF8, 0xE0), (0xFFFA, 0xE1), (0xFFFC, 0xE2), (0xFFFE, 0xE3)]

/-- Changes the board of a state. -/
def onBoard (f : Board → Board) (s : State) : State := { s with board := f s.board }

/-- Drives lines low: IRQ, NMI, Halt, Reset. -/
def lines (irq nmi halt reset : Bool) (s : State) : State :=
  onBoard (fun b => { b with lines := { irqLow := irq, nmiLow := nmi, haltLow := halt, resetLow := reset } }) s

/-- Latches an NMI. -/
def nmi (s : State) : State := onBoard (fun b => { b with nmiPending := true }) s

/-- INCA at 0100 with A = 10, on the platform T0 with the vectors. -/
def atInca (cc : Byte) : State := small ((0x0100, 0x4C) :: vec) 0x10 0x20 0x3040 0x01FF 0x0100 cc

/-- TV-IRQ-1: the IRQ is taken, INCA is not executed. -/
theorem test_irq_1 :
    let out := step (lines true false false false (atInca 0xC9))
    registers out = some [0x10, 0x20, 0x3040, 0x01F8, 0xE000, 0xD9] ∧
      bytes out [0x01F9, 0x01FA, 0x01FB, 0x01FC, 0x01FD, 0x01FE, 0x01FF] = [0xC9, 0x20, 0x10, 0x30, 0x40, 0x01, 0x00] := by
  decide

/-- TV-IRQ-2: with I = 1 the IRQ is ignored. -/
theorem test_irq_2 :
    registers (step (lines true false false false (atInca 0xD0))) =
      some [0x11, 0x20, 0x3040, 0x01FF, 0x0101, 0xD0] := by decide

/-- TV-NMI-1: the NMI is taken with I = 1. -/
theorem test_nmi_1 :
    registers (step (nmi (atInca 0xD0))) = some [0x10, 0x20, 0x3040, 0x01F8, 0xE200, 0xD0] := by decide

/-- TV-WAI-2, the third step: IRQ ends the wait without a second stacking. -/
theorem test_wai_2 :
    registers (step (lines true false false false { atInca 0xC1 with run := .waiting, sp := 0x01F8 })) =
      some [0x10, 0x20, 0x3040, 0x01F8, 0xE000, 0xD1] := by decide

/-- TV-HLT-2, the first step: Halt goes before NMI. -/
theorem test_hlt_2 :
    registers (step (nmi (lines false false true false (atInca 0xD0)))) =
      some [0x10, 0x20, 0x3040, 0x01FF, 0x0100, 0xD0] := by decide

/-- D10: an IRQ still low at the end of a halt is its level alone; one that is high again is remembered if I = 0. -/
theorem test_halt_irq :
    let h := fun cc => onBoard (fun b => { b with irqSeen := true }) { atInca cc with run := .halted }
    (h 0xC0).haltedStep.haltIrq = true ∧ (h 0xD0).haltedStep.haltIrq = false ∧
      (lines true false false false (h 0xC0)).haltedStep.haltIrq = false := by decide

/-- R402: clocks lost during a Reset pulse start its count again. -/
theorem test_reset_clock :
    ((Board.event { Board.atReset with resetFor := some 9 } .clockLost).resetFor) = some 0 := by decide

/-- TV-UND-2, the second step: 87 is refused by name with its address. -/
theorem test_und_2 : step (small [(0x0101, 0x87)] 0 0 0 0x01FF 0x0101 0xC0) = .refused (.undefinedOpcode 0x87 0x0101) :=
  rfl

/-- A word placed for the fetch is what the first step after reset runs. -/
theorem test_fetch_word :
    registers (step (State.reset.withFetchWord 16 0x348B)) = some [0x34, 0x00, 0x0000, 0x0000, 0x0002, 0xD0] := by decide

/-! ### The devices: the rules of 60_exceptions.md -/

/-- A PIA whose side A has the given control byte, after reset. -/
def piaWith (ctl : Byte) : Pia := { Pia.atReset with sideA := { PiaSide.atReset with ctl := ctl }, sideB := { PiaSide.atReset with ctl := ctl } }

/-- R349, R352: a falling CA1 with bits 1 and 0 being 0 and 1 sets bit 7 and pulls the interrupt output low. -/
theorem test_pia_c1 :
    ((piaWith 0x05).sideA.setC1 false).ctl = 0x85 ∧ ((piaWith 0x05).sideA.setC1 false).irqLow = true := by decide

/-- R343: while Reset is low a write to a wired PIA stores nothing, and to one on another Reset pin it does. -/
theorem test_pia_held :
    let low : Board := { Board.atReset with lines := { Board.atReset.lines with resetLow := true } }
    (low.accessWrite 0x8005 0x3F).pias.map (fun p => p.sideA.ctl) = [0x00] ∧
      (Board.accessWrite 0x8005 0x3F { low with pias := [{ Pia.atReset with resetWired := false }] }).pias.map
        (fun p => p.sideA.ctl) = [0x3F] := by decide

/-- R353: a control byte that keeps the handshake mode keeps the level of C2. -/
theorem test_pia_mode_kept :
    ((({ piaWith 0x24 with sideA := { PiaSide.atReset with ctl := 0x24, c2out := false } } : Pia).write 0xFF 1
      0x25).sideA).c2out = false := by decide

/-- R340: with RS1 on A0 and RS0 on A1 the second address of a PIA is its register 2. -/
theorem test_pia_register_selects :
    let swapped : MemMap := [{ base := 0, size := 1, kind := .pia 0 0 }, { base := 1, size := 1, kind := .pia 0 2 },
      { base := 2, size := 1, kind := .pia 0 1 }, { base := 3, size := 1, kind := .pia 0 3 }]
    (Board.accessWrite 1 0x5A { Board.atReset with map := swapped }).pias.map (fun p => p.sideB.ddr) = [0x5A] := by decide

/-- R351 is silent on a change of the active transition: the network may be conditioned or not, as the free bits say. -/
theorem test_pia_polarity :
    let p : PiaSide := { PiaSide.atReset with c1 := false, cond1 := false }
    (p.writeCtl 0x02 0x02).cond1 = true ∧ (p.writeCtl 0x00 0x02).cond1 = false ∧ (p.writeCtl 0x02 0x00).cond1 = false := by
  decide

/-- R370: a rise of DCD while the master reset is still selected is latched and, with CR7 set, interrupts. -/
theorem test_acia_dcd_in_reset :
    let p := (Acia.atPowerOn.write 0 0x83).setDcd true true
    p.irqLow = true ∧ ((p.setDcd true false).read 0 0).1 = 0x84 := by decide

/-- R351: a read of the peripheral register clears the flags. -/
theorem test_pia_clear : ((piaWith 0xC5).read 0).2.sideA.ctl = 0x05 := by decide

/-- The ACIA after the master reset (R362) and a control byte of ratio 16 with 8 bits and 1 stop bit (R363, R364). -/
def acia : Acia := (Acia.atPowerOn.write 0 0x03).write 0 0x15

/-- R369, R371: the transmitter is empty and CTS is low. -/
theorem test_acia_status : (acia.read 0 0).1 = 0x02 := by decide

/-- R364: with the word selects 010 and 011 (7 bits, even and odd parity), bit 7 of the character is not sent, and C1 goes
out as 41, which has two ones. -/
theorem test_acia_parity :
    (((acia.write 0 0x09).write 1 0xC1).take).sending = some (0x41, some false) ∧
      (((acia.write 0 0x0D).write 1 0xC1).take).sending = some (0x41, some true) := by decide

/-- R370, R377: DCD going high forgets a recorded overrun and lets nothing be received. -/
theorem test_acia_dcd :
    let two := (acia.receive 0x41 false false).receive 0x42 false false
    two.ovrnPending = true ∧ (two.setDcd true true).ovrnPending = false ∧
      ((two.setDcd true true).receive 0x43 false false).rdr = 0x41 := by decide

/-- R383: a byte stored through a mirror is read at the address it repeats. -/
theorem test_mirror_store :
    let mirrored : MemMap := [{ base := 0, size := 0x100, kind := .ram }, { base := 0x200, size := 0x100, kind := .mirror 0 }]
    ((Board.busWrite 0x02FF 0x5A { Board.atReset with map := mirrored }).busRead 0x00FF).1 = 0x5A := by decide

/-- R65: LDAA F9,X with X = 12F4 shows X and then X plus the offset without the carry, and reads at 13ED. -/
theorem test_index_cycles :
    (State.idles (indexCycles 0x12F4 0xF9) (small [] 0 0 0x12F4 0 0 0xC0)).board.trace.map BusCycle.use =
      [.shows 0x12F4, .shows 0x12ED] ∧ (MemOperand.idx 0xF9).ea (small [] 0 0 0x12F4 0 0 0xC0) = 0x13ED := by decide

/-- R377: a character received is read back. -/
theorem test_acia_receive : ((acia.receive 0x4F false false).read 0 1).1 = 0x4F := by decide

/-! ### Witnesses: states that meet the hypotheses of the obligations -/

/-- The platform with every kind of region and a hole: RAM 0000 to 7FFF, PIA 8000, ACIA 8004, the last page of the RAM
again at C000, ROM FF00. -/
def mixed : MemMap :=
  [{ base := 0, size := 0x8000, kind := .ram }, { base := 0x8000, size := 4, kind := .pia 0 0 },
    { base := 0x8004, size := 2, kind := .acia 0 0 }, { base := 0xC000, size := 0x100, kind := .mirror 0x7F00 }, romPage]

/-- A PIA on a Reset pin of its own, which is low. -/
def ownPin : Pia := { Pia.atReset with resetWired := false, resetLow := true }

/-- Its board. -/
def mixedBoard : Board := { Board.atReset with map := mixed }

theorem witness_DecodeOfEncode : (Instr.ldxExt 0xFFFF).wf = true ∧ (Instr.bra 0x80).wf = true ∧ Instr.nop.wf = true := by
  decide

theorem witness_EncodeOfDecode : decode [0xFE, 0x12, 0x34, 0x01] = .ok (.ldxExt 0x1234, [0x01]) := by decide

theorem witness_UnassignedCodes : (0x00 : Byte) ∈ unassignedCodes ∧ (0xFD : Byte) ∈ unassignedCodes := by decide

/-- LDAA immediate in the last byte of the address space and the first. -/
def atTop : State := small [(0xFFFF, 0x86), (0x0000, 0x42)] 0 0 0 0x01FF 0xFFFF 0xC0

theorem small_ready (cells : List (Nat × Nat)) (a b : Byte) (x sp pc : Word) (cc : Byte) :
    (small cells a b x sp pc cc).Ready :=
  ⟨⟨rfl, rfl, rfl, rfl⟩, rfl, rfl, rfl, rfl⟩

theorem small_quiet (cells : List (Nat × Nat)) (a b : Byte) (x sp pc : Word) (cc : Byte) :
    (small cells a b x sp pc cc).Quiet :=
  ⟨rfl, rfl, rfl⟩

/-- On the platform T0 any list of different addresses is writable. -/
theorem small_writable (cells : List (Nat × Nat)) (a b : Byte) (x sp pc : Word) (cc : Byte) {l : List Addr} (h : l.Nodup) :
    (small cells a b x sp pc cc).Writable l := by
  have f : ∀ c : Addr, (small cells a b x sp pc cc).board.map.findAt c.toNat = some (.ram, c.toNat) := fun c => by
    have := c.isLt
    simp [small, MemMap.findAt, Region.covers, this]
  have e : ∀ c : Addr, (small cells a b x sp pc cc).board.map.home c.toNat = c.toNat := fun c => by
    simp [MemMap.home, f c]
  refine ⟨fun c _ => ?_, h.imp (fun n w => n (BitVec.eq_of_toNat_eq (by rwa [State.SameByte, e, e] at w)))⟩
  simp [State.isRam, MemMap.isRam, MemMap.regionAt, e, f]

theorem witness_StepRunsTheDecodedInstruction : atTop.Ready ∧ atTop.Holds (.ldaaImm 0x42) := by
  refine ⟨small_ready _ _ _ _ _ _ _, ?_⟩
  unfold State.Holds
  decide

/-- The same for a one-byte and a three-byte instruction. -/
theorem witness_StepRunsTheDecodedInstruction_lengths :
    (small [(0x0100, 0x01)] 0 0 0 0 0x0100 0xC0).Holds .nop ∧
      (small [(0xFFFE, 0x7E), (0xFFFF, 0x12), (0x0000, 0x34)] 0 0 0 0 0xFFFE 0xC0).Holds (.jmpExt 0x1234) := by
  unfold State.Holds
  decide

theorem witness_StepRefusesAnUnassignedCode :
    (small [(0xFFFF, 0xFD)] 0 0 0 0 0xFFFF 0xC0).Ready ∧
      (small [(0xFFFF, 0xFD)] 0 0 0 0 0xFFFF 0xC0).isMemory 0xFFFF = true ∧
      (small [(0xFFFF, 0xFD)] 0 0 0 0 0xFFFF 0xC0).byteAt 0xFFFF ∈ unassignedCodes :=
  ⟨small_ready _ _ _ _ _ _ _, by decide, by decide⟩

theorem witness_NothingElseStopsTheMachine :
    step (small [] 0 0 0 0 0x0100 0xC0) = .refused (.undefinedOpcode 0x00 0x0100) := rfl

theorem witness_BusCyclesOfEveryInstruction :
    (∃ t, exec (.tstExt 0xFFFF) atTop = .next t) ∧ (∃ t, exec .wai atTop = .next t) ∧ atTop.Quiet :=
  ⟨⟨_, rfl⟩, ⟨_, rfl⟩, small_quiet _ _ _ _ _ _ _⟩

/-- Operands at 00FF (direct), at FFFF (extended) and past FFFF (indexed, X = FFFF). -/
theorem witness_OperandsAreAddressedAndRead :
    let s := small [] 0 0 0xFFFF 0 0 0xC0
    s.Quiet ∧
      ∀ e ∈ [MemOperand.dir 0xFF, .idx 0xFF, .idx 0x00, .ext 0xFFFF, .ext 0x0000],
        s.isMemory (e.ea s) = true ∧ s.isMemory (e.ea s + 1) = true := by
  refine ⟨⟨rfl, rfl, rfl⟩, ?_⟩
  decide

/-- One address for each clause at each end of its range: RAM, ROM, nothing, PIA, ACIA, the mirror and what it repeats. -/
theorem witness_BusAccessByRegion :
    mixedBoard.Quiet ∧
      (∀ a ∈ [0x0000, 0x7FFF, 0xFF00, 0xFFFF], mixed.isMemory a = true) ∧
      (∀ a ∈ [0x8006, 0xFEFF], mixed.regionAt a = none) ∧
      (∀ a ∈ [0x0000, 0x7FFF], mixed.isRam a = true) ∧
      (∀ a ∈ [0x8000, 0x8006, 0xFEFF, 0xFF00, 0xFFFF], mixed.isRam a = false) ∧
      mixed.regionAt 0x8000 = some (.pia 0 0, 0) ∧ mixed.regionAt 0x8003 = some (.pia 0 0, 3) ∧
      mixed.regionAt 0x8004 = some (.acia 0 0, 0) ∧ mixed.regionAt 0x8005 = some (.acia 0 0, 1) ∧
      mixedBoard.pias[0]? = some Pia.atReset ∧ mixedBoard.acias[0]? = some Acia.atPowerOn ∧
      mixed.home 0xC000 = mixed.home 0x7F00 ∧ mixed.home 0xC0FF = mixed.home 0x7FFF ∧
      mixed.findAt 0xC000 = some (.mirror 0x7F00, 0x00) ∧ mixed.findAt 0xC0FF = some (.mirror 0x7F00, 0xFF) ∧
      mixed.findAt 0x7F00 = some (.ram, 0x7F00) ∧ Pia.atReset.held false = false ∧ ownPin.held false = true :=
  ⟨⟨rfl, rfl, rfl⟩, by decide, by decide, by decide, by decide, rfl, rfl, rfl, rfl, rfl, rfl, rfl, rfl, rfl, rfl, rfl,
    rfl, rfl⟩

theorem witness_StoredByteIsReadBack :
    Memory.wf [(0x0000, 0x01), (0xFFFF, 0x02)] = true ∧ Memory.wf [(0x0000, 0x01)] = true := by decide

/-- The premises of every frame (`MemoryKept`, `ByteStored`, `WordStored`, `FrameStored`). -/
theorem witness_Frames : atTop.Quiet ∧ atTop.MemoryOk ∧ State.reset.Quiet ∧ State.reset.MemoryOk :=
  ⟨⟨rfl, rfl, rfl⟩, by unfold State.MemoryOk; decide, ⟨rfl, rfl, rfl⟩, by unfold State.MemoryOk; decide⟩

/-- 99 + 99 + 1, the largest operands, and 00 + 00, the smallest, for both additions. -/
theorem witness_DecimalAddition :
    ∀ v ∈ [(0x99 : Byte), 0x00], v.toNat % 16 ≤ 9 ∧ v.toNat / 16 ≤ 9 ∧
      (∃ t w, exec (.adcaImm v) (small [] v 0 0 0 0 0xC1) = .next t ∧ exec .daa t = .next w) ∧
      (∃ t w, exec (.addaImm v) (small [] v 0 0 0 0 0xC1) = .next t ∧ exec .daa t = .next w) := by
  intro v hv
  simp only [List.mem_cons, List.not_mem_nil, or_false] at hv
  rcases hv with rfl | rfl <;> exact ⟨by decide, by decide, ⟨_, _, rfl, rfl⟩, _, _, rfl, rfl⟩

/-- The pulled byte at 0000, with SP = FFFF, and in ROM. -/
theorem witness_PushAndPullForms :
    (small [] 0 0 0 0xFFFF 0 0xC0).Quiet ∧ (small [] 0 0 0 0xFFFF 0 0xC0).isMemory (0xFFFF + 1) = true ∧
      State.reset.isMemory (0xFBFF + 1) = true :=
  ⟨⟨rfl, rfl, rfl⟩, by decide, by decide⟩

/-- The return address at FFFF and 0000. -/
theorem witness_ReturnFromSubroutine :
    let s := small [] 0 0 0 0xFFFE 0 0xC0
    s.Quiet ∧ s.isMemory (s.sp + 1) = true ∧ s.isMemory (s.sp + 2) = true :=
  ⟨⟨rfl, rfl, rfl⟩, by decide, by decide⟩

/-- The frame across FFFF and 0000. -/
theorem witness_ReturnFromInterrupt :
    (small [] 0 0 0 0xFFFB 0 0xC0).Quiet ∧ (small [] 0 0 0 0xFFFB 0 0xC0).FrameReadable := by
  refine ⟨⟨rfl, rfl, rfl⟩, ?_⟩
  unfold State.FrameReadable
  decide

theorem witness_SoftwareInterrupt : State.reset.Quiet ∧ State.reset.VectorReadable 0xFFFA :=
  ⟨⟨rfl, rfl, rfl⟩, by unfold State.VectorReadable; decide⟩

theorem witness_ConditionCodeTransfers :
    (∃ t u, exec .tpa atTop = .next t ∧ exec .tap t = .next u) ∧ (∃ t u, exec .tap atTop = .next t ∧ exec .tpa t = .next u) :=
  ⟨⟨_, _, rfl, rfl⟩, _, _, rfl, rfl⟩

theorem witness_WritersOfFlagsAndPointers :
    (∃ t, exec .nop atTop = .next t) ∧ writesI .nop = false ∧ writesH .nop = false ∧ writesX .nop = false ∧
      writesSp .nop = false :=
  ⟨⟨_, rfl⟩, by decide⟩

/-- A stack that wraps below 0000, and RTI at the state SWI left. -/
theorem witness_InterruptFrameRoundTrip :
    let s := small vec 1 2 3 0x0003 0x0200 0xD0
    let t := swiOp s
    s.Quiet ∧ s.MemoryOk ∧ s.Writable s.frameAddrs ∧ exec .swi s = .next t ∧ t.Quiet ∧ t.board.map = s.board.map := by
  refine ⟨⟨rfl, rfl, rfl⟩, ?_, ?_, rfl, ⟨by decide, by decide, by decide⟩, by decide⟩
  · unfold State.MemoryOk
    decide
  · exact small_writable _ _ _ _ _ _ _ (by decide)

/-- A stack that wraps below 0000, and RTS at the state the call left. -/
theorem witness_CallReturnRoundTrip :
    let s := small [] 1 2 3 0x0000 0x0200 0xD0
    s.Quiet ∧ s.MemoryOk ∧ s.Writable [s.sp, s.sp - 1] ∧ (bsrOp 0 s).Quiet ∧
      (bsrOp 0 s).board.map = s.board.map ∧ exec (.bsr 0) s = .next (bsrOp 0 s) := by
  refine ⟨⟨rfl, rfl, rfl⟩, ?_, ?_, ⟨by decide, by decide, by decide⟩, by decide, rfl⟩
  · unfold State.MemoryOk
    decide
  · exact small_writable _ _ _ _ _ _ _ (by decide)

theorem witness_NmiEntry :
    let s := nmi (atInca 0xD0)
    s.AtBoundary ∧ s.board.lines.haltLow = false ∧ s.board.nmiPending = true ∧ s.VectorReadable 0xFFFC := by
  refine ⟨⟨rfl, rfl, rfl, rfl⟩, rfl, rfl, ?_⟩
  unfold State.VectorReadable
  decide

theorem witness_IrqEntry :
    let s := lines true false false false (atInca 0xC0)
    s.AtBoundary ∧ s.board.lines.haltLow = false ∧ s.board.nmiPending = false ∧ s.board.irqLow = true ∧ s.cc.i = false ∧
      s.VectorReadable 0xFFF8 := by
  refine ⟨⟨rfl, rfl, rfl, rfl⟩, rfl, rfl, rfl, rfl, ?_⟩
  unfold State.VectorReadable
  decide

/-- WAITING, for the clauses: Halt low; an NMI; an IRQ with I = 0; an IRQ with I = 1. -/
theorem witness_WaitEnds :
    let w := fun cc => { atInca cc with run := .waiting }
    (∀ s ∈ [lines false false true false (w 0xC0), nmi (w 0xD0), lines true false false false (w 0xC0),
        lines true false false false (w 0xD0)],
      s.run = .waiting ∧ s.resetAsked = false ∧ s.board.destroyed = false ∧ s.board.env = []) ∧
      (nmi (w 0xD0)).board.nmiPending = true ∧ (lines true false false false (w 0xC0)).board.irqLow = true ∧
      (w 0xC0).cc.i = false ∧ (w 0xD0).cc.i = true ∧ (w 0xC0).isMemory 0xFFF8 = true ∧ (w 0xC0).isMemory 0xFFFD = true := by
  decide

/-- An IRQ is remembered from a halt. -/
def remembered : State := { atInca 0xC0 with haltIrq := true }

/-- Halt low at a boundary; HALTED with Halt low; HALTED with Halt high; HALTED with Halt low and an IRQ that falls and
rises within the cycle; an IRQ remembered from the halt. -/
theorem witness_HaltedMachine :
    let h := { atInca 0xC0 with run := .halted }
    let pulse := onBoard (fun b => { b with env := [[.irq true, .irq false]] }) (lines false false true false h)
    (lines false false true false (atInca 0xC0)).AtBoundary ∧
      (∀ s ∈ [h, lines false false true false h],
        s.run = .halted ∧ s.resetAsked = false ∧ s.board.destroyed = false ∧ s.board.env = []) ∧
      remembered.AtBoundary ∧ remembered.board.lines.haltLow = false ∧ remembered.board.nmiPending = false ∧
      remembered.board.irqLow = false ∧ remembered.cc.i = false ∧ remembered.haltIrq = true ∧
      pulse.run = .halted ∧ pulse.resetAsked = false ∧ pulse.board.destroyed = false ∧
      pulse.board.lines.haltLow = true ∧ pulse.board.env = [.irq true, .irq false] :: [] ∧
      (∀ e ∈ [EnvEvent.irq true, .irq false], (∀ a, e ≠ .masterRead a) ∧ ∀ a v, e ≠ .masterWrite a v) := by
  refine ⟨⟨rfl, rfl, rfl, rfl⟩, ?_, ⟨rfl, rfl, rfl, rfl⟩, rfl, rfl, rfl, rfl, rfl, rfl, rfl, rfl, rfl, rfl, by simp⟩
  decide

/-- Reset low; Reset high again after a pulse that is not served; RESET with the line high after 8 cycles, after 7 and
after none, and with no pulse to serve. -/
theorem witness_ResetOverrides :
    let r := { atInca 0xC0 with run := .reset }
    let after := fun n => onBoard (fun b => { b with resetFor := some n })
    (lines false false false true (atInca 0xC0)).resetAsked = true ∧ (after 0 (atInca 0xC0)).resetAsked = true ∧
      (atInca 0xC0).run ≠ .reset ∧ (after 8 r).run = .reset ∧ (after 8 r).board.lines.resetLow = false ∧
      (after 8 r).board.resetFor = some 8 ∧ (after 8 r).board.env = [] ∧ (after 8 r).isMemory 0xFFFE = true ∧
      (after 8 r).isMemory 0xFFFF = true ∧ r.board.resetFor = none ∧ r.board.destroyed = false ∧
      (∀ n ∈ [0, 7], (after n r).run = .reset ∧ (after n r).board.lines.resetLow = false ∧
        (after n r).board.resetFor = some n) := by decide

/-- The state after reset with a NOP placed. -/
def resetNop : State := State.reset.withFetchWord 8 0x01

/-- A step that leaves registers gives a next state. -/
theorem next_of_registers {out : Result} (h : (registers out).isSome = true) : ∃ t, out = .next t := by
  cases out with
  | next t => exact ⟨t, rfl⟩
  | fault f => exact absurd h (by simp [registers])
  | refused r => exact absurd h (by simp [registers])

theorem resetNop_next : ∃ t, step resetNop = .next t := next_of_registers (by decide)

theorem witness_StepKeepsTheInvariant : resetNop.Inv ∧ ∃ t, step resetNop = .next t := by
  refine ⟨?_, resetNop_next⟩
  unfold State.Inv Board.Inv
  decide

/-- Addresses that are not RAM: the PIA, the ACIA and both ends of the ROM. -/
theorem witness_OnlyRamChanges :
    (∃ t, step resetNop = .next t) ∧
      [(0x8004 : Addr), 0x8007, 0x8008, 0x8009, 0xFC00, 0xFFFF].all (fun a => !resetNop.isRam a) = true :=
  ⟨resetNop_next, by decide⟩

theorem witness_PiaRegisters :
    (piaWith 0x00).sideA.ctl.getLsbD 2 = false ∧ (piaWith 0x00).sideB.ctl.getLsbD 2 = false ∧
      (piaWith 0x04).sideA.ctl.getLsbD 2 = true ∧ (piaWith 0x04).sideB.ctl.getLsbD 2 = true := by decide

theorem witness_PiaInterruptFlags :
    (piaWith 0xC5).sideA.ctl.getLsbD 2 = true ∧ (piaWith 0xC5).sideB.ctl.getLsbD 2 = true ∧
      (piaWith 0xC1).sideA.ctl.getLsbD 2 = false ∧ (piaWith 0xC1).sideB.ctl.getLsbD 2 = false := by decide

/-- Modes 100 and 101 of both sides, mode 110, and an active transition in mode 100. -/
theorem witness_PiaHandshakes :
    (∀ c ∈ [(0x24 : Byte), 0x2C], (piaWith c).sideA.ctl.getLsbD 2 = true ∧ (piaWith c).sideA.ctl.getLsbD 5 = true ∧
      (piaWith c).sideA.ctl.getLsbD 4 = false ∧ (piaWith c).sideB.ctl.getLsbD 2 = true ∧
      (piaWith c).sideB.ctl.getLsbD 5 = true ∧ (piaWith c).sideB.ctl.getLsbD 4 = false) ∧
      (0x30 : Byte).getLsbD 5 = true ∧ (0x30 : Byte).getLsbD 4 = true ∧ (0x24 : Byte).getLsbD 3 = false ∧
      (0x2C : Byte).getLsbD 3 = true ∧ false ≠ (piaWith 0x24).sideA.c1 ∧ false = (piaWith 0x24).sideA.ctl.getLsbD 1 ∧
      (piaWith 0x24).sideA.en1 = true ∧ (piaWith 0x24).sideA.cond1 = true := by decide

/-- A wired PIA with Reset low, one whose own pin goes low, and accesses to PIAs whose pin is low. -/
theorem witness_SystemResetZeroesPias :
    let own : Board := { Board.atReset with pias := [ownPin] }
    let low : Board := { Board.atReset with lines := { Board.atReset.lines with resetLow := true } }
    ((∃ p ∈ (Board.atReset.event (.reset true)).pias, p.resetWired = true) ∧
      ((own.event (.piaReset 0 true)).pias[0]?).map Pia.resetWired = some false ∧
      (∃ p ∈ (own.busWrite 0x8004 0xFF).pias, p.resetWired = false ∧ p.resetLow = true) ∧
      ∃ p ∈ (own.busRead 0x8004).2.pias, p.resetWired = false ∧ p.resetLow = true) ∧
    (low.idle (.internal none)).lines.resetLow = true ∧
      (low.idle (.internal none)).pias.map Pia.resetWired = [true] :=
  ⟨by decide, rfl, rfl⟩

theorem witness_AciaStatusByte : acia.held = false := by decide

/-- The ratio codes at both ends: 00 and 10. -/
theorem witness_AciaMasterReset :
    (0x03 : Byte).getLsbD 1 = true ∧ (0x03 : Byte).getLsbD 0 = true ∧
      ((0x00 : Byte).getLsbD 1 && (0x00 : Byte).getLsbD 0) = false ∧
      ((0x02 : Byte).getLsbD 1 && (0x02 : Byte).getLsbD 0) = false := by decide

/-- The receive interrupt off and on. -/
theorem witness_AciaReceiver :
    acia.inReset = false ∧ acia.dcd = false ∧ acia.rdrf = false ∧ acia.ovrnPending = false ∧ acia.ovrn = false ∧
      (acia.write 0 0x95).inReset = false ∧ (acia.write 0 0x95).dcd = false ∧
      (acia.write 0 0x95).ctl.getLsbD 7 = true := by decide

/-- A mode with parity and one without. -/
theorem witness_AciaTransmit :
    acia.inReset = false ∧ acia.tsr = none ∧ (∃ bit, (acia.write 0 0x01).parityBit 0x00 = some bit) ∧
      acia.parityBit 0x00 = none := by decide

theorem witness_ConditionCodeBits : (∃ t, exec .cli atTop = .next t) ∧ ∃ t, exec .sei atTop = .next t :=
  ⟨⟨_, rfl⟩, _, rfl⟩

/-- An NMI line that was high when last sampled, and one that was low and still is. -/
theorem witness_InterruptInputs :
    let low := Board.atReset.event (.nmi true)
    Board.atReset.nmiSeen = false ∧ Board.atReset.nmiSeen = Board.atReset.nmiLow ∧ low.nmiSeen = true ∧
      low.nmiSeen = low.nmiLow ∧ (∀ a, EnvEvent.nmi true ≠ .masterRead a) ∧
      (∀ a v, EnvEvent.nmi true ≠ .masterWrite a v) ∧ (Board.atReset.irqLow = true → Board.atReset.irqSeen = true) :=
  ⟨rfl, rfl, rfl, rfl, by simp, by simp, by decide⟩

end Sys2Proof.Tests
end

namespace Sys2Proof.Machine

/-! ## Reads of memory after reads: what they leave and what they give -/

/-- Reads and VMA = 0 cycles of a quiet board keep every word of memory. -/
theorem Stores.wordAt_eq {s t : State} (h : Stores [] s t) (q : s.Quiet) (a : Addr) : t.wordAt a = s.wordAt a := by
  obtain ⟨bytes, -⟩ := h.kept q
  unfold State.wordAt
  rw [bytes, bytes]

/-- A pull from RAM or ROM, after nothing but reads, gives the byte that stood there before them (R56). -/
theorem Stores.pull8_value {s t : State} (h : Stores [] s t) (q : s.Quiet) {a : Addr} (e : t.sp + 1 = a)
    (m : s.isMemory a = true) : t.pull8.1 = s.byteAt a := by
  obtain ⟨bytes, -⟩ := h.kept q
  subst e
  exact (h.read8_value q m).trans (bytes _)

/-- The same for a pull of two bytes, the high-order byte first (R57). -/
theorem Stores.pull16_value {s t : State} (h : Stores [] s t) (q : s.Quiet) {a : Addr} (e : t.sp + 1 = a)
    (m : s.isMemory a = true) (m' : s.isMemory (a + 1) = true) : t.pull16.1 = s.wordAt a := by
  have high := h.pull8_value q e m
  have low := (h.trans (stores_pull8 t)).pull8_value q (by rw [State.pull8_sp, e]) m'
  unfold State.pull16 State.wordAt join
  dsimp only
  rw [high, low]

/-! ## The return from an interrupt (R260, R321) -/

/-- The k-th byte of a readable frame, counted from SP. -/
theorem State.FrameReadable.isMemory {s : State} (h : s.FrameReadable) (k : Nat) (hk : 0 < k ∧ k ≤ 7) :
    s.isMemory (s.sp + BitVec.ofNat 16 k) = true := by
  have e : s.sp + 1 + BitVec.ofNat 16 (k - 1) = s.sp + BitVec.ofNat 16 k := by bv_omega
  rw [← e]
  exact h (k - 1) (by omega)

/-- The pulls of RTI move SP up by seven and write A, B, X, pc and the flags. -/
theorem pullFrame_eq (s : State) :
    s.pullFrame =
      { s with a := s.pullFrame.a, b := s.pullFrame.b, x := s.pullFrame.x, pc := s.pullFrame.pc, cc := s.pullFrame.cc,
               sp := s.sp + 7, board := s.pullFrame.board } := by
  apply State.ext <;> simp [State.pullFrame, BitVec.add_assoc]

/-- What a readable frame, reached by nothing but reads, is pulled as. -/
theorem Stores.pullFrame_value {s t : State} (h : Stores [] s t) (q : s.Quiet) (f : s.FrameReadable) (e : t.sp = s.sp) :
    t.pullFrame.cc = Flags.ofByte (s.byteAt (s.sp + 1)) ∧ t.pullFrame.b = s.byteAt (s.sp + 2) ∧
      t.pullFrame.a = s.byteAt (s.sp + 3) ∧ t.pullFrame.x = s.wordAt (s.sp + 4) ∧
      t.pullFrame.pc = s.wordAt (s.sp + 6) := by
  have h1 := h.trans (stores_pull8 t)
  have h2 := h1.trans (stores_pull8 _)
  have h3 := h2.trans (stores_pull8 _)
  have h5 := h3.trans (stores_pull16 _)
  have next : s.sp + 4 + 1 = s.sp + 5 ∧ s.sp + 6 + 1 = s.sp + 7 := by constructor <;> bv_omega
  refine ⟨congrArg Flags.ofByte (h.pull8_value q ?_ (f.isMemory 1 (by omega))),
    h1.pull8_value q ?_ (f.isMemory 2 (by omega)), h2.pull8_value q ?_ (f.isMemory 3 (by omega)),
    h3.pull16_value q ?_ (f.isMemory 4 (by omega)) (next.1 ▸ f.isMemory 5 (by omega)),
    h5.pull16_value q ?_ (f.isMemory 6 (by omega)) (next.2 ▸ f.isMemory 7 (by omega))⟩ <;>
    simp [e, BitVec.add_assoc]

/-- Settles O35: RTI reads the byte after it and makes a VMA = 0 cycle, then pulls the frame. -/
theorem returnFromInterrupt : Obligations.ReturnFromInterrupt := by
  intro s
  refine ⟨rtiOp s, rfl, pullFrame_eq _, (stores_rtiOp s).kept, fun q f => ?_⟩
  obtain ⟨hcc, hb, ha, hx, hpc⟩ :=
    ((stores_inherent s).trans (stores_idle (vmaLow s.sp) _)).pullFrame_value q f rfl
  rw [show (rtiOp s).cc = _ from hcc]
  exact ⟨⟨rfl, rfl, rfl, rfl, rfl, rfl⟩, hb, ha, hx, hpc⟩

/-! ## TAP and TPA (R27, R296 to R298) -/

/-- TPA writes A and nothing else of the registers. -/
theorem execTpa_eq (s : State) :
    exec .tpa s = .next { s with a := s.cc.toByte, board := s.inherent.board } := rfl

/-- TAP writes the flags and nothing else of the registers. -/
theorem execTap_eq (s : State) :
    exec .tap s = .next { s with cc := Flags.ofByte s.a, board := s.inherent.board } := rfl

/-- The byte made from flags, bit by bit (R27). -/
theorem Flags.toByte_bits (f : Flags) :
    f.toByte.getLsbD 7 = true ∧ f.toByte.getLsbD 6 = true ∧ f.toByte.getLsbD 5 = f.h ∧ f.toByte.getLsbD 4 = f.i ∧
      f.toByte.getLsbD 3 = f.n ∧ f.toByte.getLsbD 2 = f.z ∧ f.toByte.getLsbD 1 = f.v ∧ f.toByte.getLsbD 0 = f.c := by
  obtain ⟨h, i, n, z, v, c⟩ := f
  revert h i n z v c
  decide

/-- Settles O39: the two compositions are the two round trips between six flags and a byte. -/
theorem conditionCodeTransfers : Obligations.ConditionCodeTransfers := by
  refine ⟨fun s => ⟨?tap, ?tpa⟩, fun s t u ht hu => ?tpaTap, fun s t u ht hu => ?tapTpa⟩
  case tap => exact ⟨_, execTap_eq s, rfl, (stores_flagOp _ s).kept⟩
  case tpa =>
    exact ⟨_, execTpa_eq s, ⟨rfl, s.cc.toByte_bits⟩, rfl, ((stores_inherent s).of_board rfl rfl).kept⟩
  case tpaTap =>
    rw [execTpa_eq] at ht
    cases ht
    rw [execTap_eq] at hu
    cases hu
    simp only [Flags.ofByte_toByte]
  case tapTpa =>
    rw [execTap_eq] at ht
    cases ht
    rw [execTpa_eq] at hu
    cases hu
    exact Flags.toByte_ofByte s.a

/-! ## Which instructions write I, H, X and SP (R22, R25, R28, R29, R34) -/

/-- `t` has the I, H, X and SP of `s`, except those that `wi`, `wh`, `wx` and `ws` allow to be written. -/
structure Leaves (wi wh wx ws : Bool) (s t : State) : Prop where
  i : wi = false → t.cc.i = s.cc.i
  h : wh = false → t.cc.h = s.cc.h
  x : wx = false → t.x = s.x
  sp : ws = false → t.sp = s.sp

section
variable {wi wh wx ws : Bool} {s t : State}

/-- The four registers the same: nothing is written. -/
theorem Leaves.of_eq (hcc : t.cc = s.cc) (hx : t.x = s.x) (hsp : t.sp = s.sp) : Leaves wi wh wx ws s t :=
  ⟨fun _ => by rw [hcc], fun _ => by rw [hcc], fun _ => hx, fun _ => hsp⟩

/-- A state that differs in the board alone, then new flags that agree with the old ones where they must. -/
theorem Leaves.setFlags {f : Flags} (ht : t = { s with board := t.board }) (hi : f.i = s.cc.i)
    (hh : wh = false → f.h = s.cc.h) : Leaves wi wh wx ws s (t.setFlags f) :=
  ⟨fun _ => hi, hh, fun _ => by rw [State.setFlags_x, ht], fun _ => by rw [State.setFlags_sp, ht]⟩

/-- The same with an accumulator written before the flags: accumulators are none of the four. -/
theorem Leaves.setAcc_setFlags {f : Flags} (r : Acc) (v : Byte) (ht : t = { s with board := t.board })
    (hi : f.i = s.cc.i) (hh : wh = false → f.h = s.cc.h) :
    Leaves wi wh wx ws s ((t.setAcc r v).setFlags f) :=
  ⟨fun _ => hi, hh, fun _ => by rw [State.setFlags_x, State.setAcc_x, ht],
    fun _ => by rw [State.setFlags_sp, State.setAcc_sp, ht]⟩

end

section
variable (r : Acc) (o : Operand8) (w : Operand16) (e : MemOperand) (s : State)

/-! ### Additions write H; no other two-operand instruction writes I or H -/

theorem leaves_addOp : Leaves false true false false s (addOp r o s) :=
  Leaves.setAcc_setFlags r _ (operand8_eq o s) rfl nofun

theorem leaves_adcOp : Leaves false true false false s (adcOp r o s) :=
  Leaves.setAcc_setFlags r _ (operand8_eq o s) rfl nofun

theorem leaves_abaOp : Leaves false true false false s (abaOp s) :=
  Leaves.setAcc_setFlags (t := s.inherent) .a _ rfl rfl nofun

theorem leaves_subOp : Leaves false false false false s (subOp r o s) :=
  Leaves.setAcc_setFlags r _ (operand8_eq o s) rfl (fun _ => rfl)

theorem leaves_sbcOp : Leaves false false false false s (sbcOp r o s) :=
  Leaves.setAcc_setFlags r _ (operand8_eq o s) rfl (fun _ => rfl)

theorem leaves_andOp : Leaves false false false false s (andOp r o s) :=
  Leaves.setAcc_setFlags r _ (operand8_eq o s) rfl (fun _ => rfl)

theorem leaves_oraOp : Leaves false false false false s (oraOp r o s) :=
  Leaves.setAcc_setFlags r _ (operand8_eq o s) rfl (fun _ => rfl)

theorem leaves_eorOp : Leaves false false false false s (eorOp r o s) :=
  Leaves.setAcc_setFlags r _ (operand8_eq o s) rfl (fun _ => rfl)

theorem leaves_ldaOp : Leaves false false false false s (ldaOp r o s) :=
  Leaves.setAcc_setFlags r _ (operand8_eq o s) rfl (fun _ => rfl)

theorem leaves_cmpOp : Leaves false false false false s (cmpOp r o s) :=
  Leaves.setFlags (operand8_eq o s) rfl (fun _ => rfl)

theorem leaves_bitOp : Leaves false false false false s (bitOp r o s) :=
  Leaves.setFlags (operand8_eq o s) rfl (fun _ => rfl)

theorem leaves_cpxOp : Leaves false false false false s (cpxOp w s) :=
  Leaves.setFlags (operand16_eq w s) rfl (fun _ => rfl)

/-! ### Implied instructions on the accumulators -/

theorem leaves_sbaOp : Leaves false false false false s (sbaOp s) :=
  Leaves.setAcc_setFlags (t := s.inherent) .a _ rfl rfl (fun _ => rfl)

theorem leaves_tabOp : Leaves false false false false s (tabOp s) :=
  Leaves.setAcc_setFlags (t := s.inherent) .b _ rfl rfl (fun _ => rfl)

theorem leaves_tbaOp : Leaves false false false false s (tbaOp s) :=
  Leaves.setAcc_setFlags (t := s.inherent) .a _ rfl rfl (fun _ => rfl)

theorem leaves_daaOp : Leaves false false false false s (daaOp s) :=
  Leaves.setAcc_setFlags (t := s.inherent.drawBit.2) .a _ rfl rfl (fun _ => rfl)

theorem leaves_cbaOp : Leaves false false false false s (cbaOp s) :=
  Leaves.setFlags (t := s.inherent) rfl rfl (fun _ => rfl)

theorem leaves_tstAcc : Leaves false false false false s (tstAcc r s) :=
  Leaves.setFlags (t := s.inherent) rfl rfl (fun _ => rfl)

/-! ### The one-operand pattern: no rule used with it touches I or H -/

/-- A one-operand rule leaves I and H as they are. -/
def LeavesIH (f : Byte → Flags → Byte × Flags) : Prop := ∀ v g, (f v g).2.i = g.i ∧ (f v g).2.h = g.h

theorem leavesIH_negate : LeavesIH negate := fun _ _ => ⟨rfl, rfl⟩
theorem leavesIH_increment : LeavesIH increment := fun _ _ => ⟨rfl, rfl⟩
theorem leavesIH_decrement : LeavesIH decrement := fun _ _ => ⟨rfl, rfl⟩
theorem leavesIH_clear : LeavesIH clear := fun _ _ => ⟨rfl, rfl⟩
theorem leavesIH_complement : LeavesIH complement := fun _ _ => ⟨rfl, rfl⟩
theorem leavesIH_rotateLeft : LeavesIH rotateLeft := fun _ _ => ⟨rfl, rfl⟩
theorem leavesIH_rotateRight : LeavesIH rotateRight := fun _ _ => ⟨rfl, rfl⟩
theorem leavesIH_shiftLeft : LeavesIH shiftLeft := fun _ _ => ⟨rfl, rfl⟩
theorem leavesIH_shiftRightArith : LeavesIH shiftRightArith := fun _ _ => ⟨rfl, rfl⟩
theorem leavesIH_shiftRight : LeavesIH shiftRight := fun _ _ => ⟨rfl, rfl⟩

theorem leaves_unaryAcc {f : Byte → Flags → Byte × Flags} (hf : LeavesIH f) :
    Leaves false false false false s (unaryAcc f r s) :=
  Leaves.setAcc_setFlags (t := s.inherent) r _ rfl (hf _ _).1 (fun _ => (hf _ _).2)

theorem leaves_unaryMem {f : Byte → Flags → Byte × Flags} (hf : LeavesIH f) :
    Leaves false false false false s (unaryMem f e s) := by
  rw [unaryMem_eq]
  exact ⟨fun _ => (hf _ _).1, fun _ => (hf _ _).2, fun _ => rfl, fun _ => rfl⟩

theorem leaves_tstMem : Leaves false false false false s (tstMem e s) := by
  refine Leaves.setFlags ?_ rfl (fun _ => rfl)
  apply State.ext <;> simp [MemOperand.rmwRead]

/-! ### Stores and loads -/

theorem leaves_staOp : Leaves false false false false s (staOp r e s) :=
  Leaves.setFlags (store8_eq e _ s) rfl (fun _ => rfl)

theorem leaves_stxOp : Leaves false false false false s (stxOp e s) :=
  Leaves.setFlags (store16_eq e _ s) rfl (fun _ => rfl)

theorem leaves_stsOp : Leaves false false false false s (stsOp e s) :=
  Leaves.setFlags (store16_eq e _ s) rfl (fun _ => rfl)

theorem leaves_ldxOp : Leaves false false true false s (ldxOp w s) :=
  ⟨fun _ => rfl, fun _ => rfl, nofun, fun _ => operand16_sp w s⟩

theorem leaves_ldsOp : Leaves false false false true s (ldsOp w s) :=
  ⟨fun _ => rfl, fun _ => rfl, fun _ => operand16_x w s, nofun⟩

/-! ### Index register, stack pointer, stack, jumps and calls -/

theorem leaves_dexOp : Leaves false false true false s (dexOp s) := ⟨fun _ => rfl, fun _ => rfl, nofun, fun _ => rfl⟩
theorem leaves_inxOp : Leaves false false true false s (inxOp s) := ⟨fun _ => rfl, fun _ => rfl, nofun, fun _ => rfl⟩
theorem leaves_tsxOp : Leaves false false true false s (tsxOp s) := ⟨fun _ => rfl, fun _ => rfl, nofun, fun _ => rfl⟩
theorem leaves_desOp : Leaves false false false true s (desOp s) := ⟨fun _ => rfl, fun _ => rfl, fun _ => rfl, nofun⟩
theorem leaves_insOp : Leaves false false false true s (insOp s) := ⟨fun _ => rfl, fun _ => rfl, fun _ => rfl, nofun⟩
theorem leaves_txsOp : Leaves false false false true s (txsOp s) := ⟨fun _ => rfl, fun _ => rfl, fun _ => rfl, nofun⟩
theorem leaves_pshOp : Leaves false false false true s (pshOp r s) := ⟨fun _ => rfl, fun _ => rfl, fun _ => rfl, nofun⟩

theorem leaves_pulOp : Leaves false false false true s (pulOp r s) :=
  ⟨fun _ => by simp [pulOp], fun _ => by simp [pulOp], fun _ => by simp [pulOp], nofun⟩

theorem leaves_branchOp (taken : Bool) (d : Byte) : Leaves false false false false s (branchOp taken d s) :=
  Leaves.of_eq rfl rfl rfl

theorem leaves_jmpIndexedOp (d : Byte) : Leaves false false false false s (jmpIndexedOp d s) := Leaves.of_eq rfl rfl rfl

theorem leaves_bsrOp (d : Byte) : Leaves false false false true s (bsrOp d s) :=
  ⟨fun _ => by simp [bsrOp], fun _ => by simp [bsrOp], fun _ => by simp [bsrOp], nofun⟩

theorem leaves_jsrIndexedOp (d : Byte) : Leaves false false false true s (jsrIndexedOp d s) :=
  ⟨fun _ => by simp [jsrIndexedOp], fun _ => by simp [jsrIndexedOp], fun _ => by simp [jsrIndexedOp], nofun⟩

theorem leaves_jsrExtendedOp (a : Word) : Leaves false false false true s (jsrExtendedOp a s) :=
  ⟨fun _ => by simp [jsrExtendedOp], fun _ => by simp [jsrExtendedOp], fun _ => by simp [jsrExtendedOp], nofun⟩

theorem leaves_rtsOp : Leaves false false false true s (rtsOp s) :=
  ⟨fun _ => by simp [rtsOp], fun _ => by simp [rtsOp], fun _ => by simp [rtsOp], nofun⟩

/-- SWI sets I and leaves H and X; SP moves with the frame. -/
theorem leaves_swiOp : Leaves true false false true s (swiOp s) :=
  ⟨nofun, fun _ => by simp [swiOp], fun _ => by simp [swiOp], nofun⟩

theorem leaves_waiOp : Leaves false false false true s (waiOp s) :=
  ⟨fun _ => by simp [waiOp], fun _ => by simp [waiOp], fun _ => by simp [waiOp], nofun⟩

end

/-- Every meaning completes and leaves alone what R22, R25, R28, R29 and R34 say it leaves alone. -/
theorem exec_leaves (i : Instr) (s : State) :
    ∃ t, exec i s = .next t ∧ Leaves (writesI i) (writesH i) (writesX i) (writesSp i) s t := by
  cases i with
  | nop | tpa | jmpExt => exact ⟨_, rfl, Leaves.of_eq rfl rfl rfl⟩
  | tap => exact ⟨_, rfl, nofun, nofun, fun _ => rfl, fun _ => rfl⟩
  | cli | sei => exact ⟨_, rfl, nofun, fun _ => rfl, fun _ => rfl, fun _ => rfl⟩
  | clc | clv | sec | sev => exact ⟨_, rfl, fun _ => rfl, fun _ => rfl, fun _ => rfl, fun _ => rfl⟩
  | rti => exact ⟨_, rfl, nofun, nofun, nofun, nofun⟩
  | addaImm | addaDir | addaIdx | addaExt | addbImm | addbDir | addbIdx | addbExt => exact ⟨_, rfl, leaves_addOp _ _ s⟩
  | adcaImm | adcaDir | adcaIdx | adcaExt | adcbImm | adcbDir | adcbIdx | adcbExt => exact ⟨_, rfl, leaves_adcOp _ _ s⟩
  | subaImm | subaDir | subaIdx | subaExt | subbImm | subbDir | subbIdx | subbExt => exact ⟨_, rfl, leaves_subOp _ _ s⟩
  | sbcaImm | sbcaDir | sbcaIdx | sbcaExt | sbcbImm | sbcbDir | sbcbIdx | sbcbExt => exact ⟨_, rfl, leaves_sbcOp _ _ s⟩
  | andaImm | andaDir | andaIdx | andaExt | andbImm | andbDir | andbIdx | andbExt => exact ⟨_, rfl, leaves_andOp _ _ s⟩
  | oraaImm | oraaDir | oraaIdx | oraaExt | orabImm | orabDir | orabIdx | orabExt => exact ⟨_, rfl, leaves_oraOp _ _ s⟩
  | eoraImm | eoraDir | eoraIdx | eoraExt | eorbImm | eorbDir | eorbIdx | eorbExt => exact ⟨_, rfl, leaves_eorOp _ _ s⟩
  | ldaaImm | ldaaDir | ldaaIdx | ldaaExt | ldabImm | ldabDir | ldabIdx | ldabExt => exact ⟨_, rfl, leaves_ldaOp _ _ s⟩
  | cmpaImm | cmpaDir | cmpaIdx | cmpaExt | cmpbImm | cmpbDir | cmpbIdx | cmpbExt => exact ⟨_, rfl, leaves_cmpOp _ _ s⟩
  | bitaImm | bitaDir | bitaIdx | bitaExt | bitbImm | bitbDir | bitbIdx | bitbExt => exact ⟨_, rfl, leaves_bitOp _ _ s⟩
  | aba => exact ⟨_, rfl, leaves_abaOp s⟩
  | sba => exact ⟨_, rfl, leaves_sbaOp s⟩
  | cba => exact ⟨_, rfl, leaves_cbaOp s⟩
  | tab => exact ⟨_, rfl, leaves_tabOp s⟩
  | tba => exact ⟨_, rfl, leaves_tbaOp s⟩
  | daa => exact ⟨_, rfl, leaves_daaOp s⟩
  | nega | negb => exact ⟨_, rfl, leaves_unaryAcc _ s leavesIH_negate⟩
  | coma | comb => exact ⟨_, rfl, leaves_unaryAcc _ s leavesIH_complement⟩
  | inca | incb => exact ⟨_, rfl, leaves_unaryAcc _ s leavesIH_increment⟩
  | deca | decb => exact ⟨_, rfl, leaves_unaryAcc _ s leavesIH_decrement⟩
  | clra | clrb => exact ⟨_, rfl, leaves_unaryAcc _ s leavesIH_clear⟩
  | rola | rolb => exact ⟨_, rfl, leaves_unaryAcc _ s leavesIH_rotateLeft⟩
  | rora | rorb => exact ⟨_, rfl, leaves_unaryAcc _ s leavesIH_rotateRight⟩
  | asla | aslb => exact ⟨_, rfl, leaves_unaryAcc _ s leavesIH_shiftLeft⟩
  | asra | asrb => exact ⟨_, rfl, leaves_unaryAcc _ s leavesIH_shiftRightArith⟩
  | lsra | lsrb => exact ⟨_, rfl, leaves_unaryAcc _ s leavesIH_shiftRight⟩
  | negIdx | negExt => exact ⟨_, rfl, leaves_unaryMem _ s leavesIH_negate⟩
  | comIdx | comExt => exact ⟨_, rfl, leaves_unaryMem _ s leavesIH_complement⟩
  | incIdx | incExt => exact ⟨_, rfl, leaves_unaryMem _ s leavesIH_increment⟩
  | decIdx | decExt => exact ⟨_, rfl, leaves_unaryMem _ s leavesIH_decrement⟩
  | clrIdx | clrExt => exact ⟨_, rfl, leaves_unaryMem _ s leavesIH_clear⟩
  | rolIdx | rolExt => exact ⟨_, rfl, leaves_unaryMem _ s leavesIH_rotateLeft⟩
  | rorIdx | rorExt => exact ⟨_, rfl, leaves_unaryMem _ s leavesIH_rotateRight⟩
  | aslIdx | aslExt => exact ⟨_, rfl, leaves_unaryMem _ s leavesIH_shiftLeft⟩
  | asrIdx | asrExt => exact ⟨_, rfl, leaves_unaryMem _ s leavesIH_shiftRightArith⟩
  | lsrIdx | lsrExt => exact ⟨_, rfl, leaves_unaryMem _ s leavesIH_shiftRight⟩
  | tsta | tstb => exact ⟨_, rfl, leaves_tstAcc _ s⟩
  | tstIdx | tstExt => exact ⟨_, rfl, leaves_tstMem _ s⟩
  | staaDir | staaIdx | staaExt | stabDir | stabIdx | stabExt => exact ⟨_, rfl, leaves_staOp _ _ s⟩
  | cpxImm | cpxDir | cpxIdx | cpxExt => exact ⟨_, rfl, leaves_cpxOp _ s⟩
  | ldxImm | ldxDir | ldxIdx | ldxExt => exact ⟨_, rfl, leaves_ldxOp _ s⟩
  | ldsImm | ldsDir | ldsIdx | ldsExt => exact ⟨_, rfl, leaves_ldsOp _ s⟩
  | stxDir | stxIdx | stxExt => exact ⟨_, rfl, leaves_stxOp _ s⟩
  | stsDir | stsIdx | stsExt => exact ⟨_, rfl, leaves_stsOp _ s⟩
  | dex => exact ⟨_, rfl, leaves_dexOp s⟩
  | inx => exact ⟨_, rfl, leaves_inxOp s⟩
  | tsx => exact ⟨_, rfl, leaves_tsxOp s⟩
  | des => exact ⟨_, rfl, leaves_desOp s⟩
  | ins => exact ⟨_, rfl, leaves_insOp s⟩
  | txs => exact ⟨_, rfl, leaves_txsOp s⟩
  | psha | pshb => exact ⟨_, rfl, leaves_pshOp _ s⟩
  | pula | pulb => exact ⟨_, rfl, leaves_pulOp _ s⟩
  | bra | bcc | bcs | beq | bge | bgt | bhi | ble | bls | blt | bmi | bne | bvc | bvs | bpl =>
    exact ⟨_, rfl, leaves_branchOp s _ _⟩
  | jmpIdx => exact ⟨_, rfl, leaves_jmpIndexedOp s _⟩
  | bsr => exact ⟨_, rfl, leaves_bsrOp s _⟩
  | jsrIdx => exact ⟨_, rfl, leaves_jsrIndexedOp s _⟩
  | jsrExt => exact ⟨_, rfl, leaves_jsrExtendedOp s _⟩
  | rts => exact ⟨_, rfl, leaves_rtsOp s⟩
  | swi => exact ⟨_, rfl, leaves_swiOp s⟩
  | wai => exact ⟨_, rfl, leaves_waiOp s⟩

/-- Settles O40, from what every meaning leaves alone. -/
theorem writersOfFlagsAndPointers : Obligations.WritersOfFlagsAndPointers := by
  intro i s t h
  obtain ⟨u, hu, leaves⟩ := exec_leaves i s
  rw [hu] at h
  cases h
  exact ⟨leaves.i, leaves.h, leaves.x, leaves.sp⟩

/-! ## Steps without Reset and with the clock kept, by run state (R333) -/

@[simp] theorem State.begin_resetAsked (s : State) : s.begin.resetAsked = s.resetAsked := rfl
@[simp] theorem State.begin_irqAsked (s : State) : s.begin.irqAsked = s.irqAsked := rfl

section
variable {s : State} (asked : s.resetAsked = false) (kept : s.board.destroyed = false)
include asked kept

theorem step_waiting (h : s.run = .waiting) : step s = .next s.begin.waitingStep := by
  simp [step, State.advance, h, asked, kept]

theorem step_halted (h : s.run = .halted) : step s = .next s.begin.haltedStep := by
  simp [step, State.advance, h, asked, kept]

theorem step_running (h : s.run = .running) : step s = s.begin.runningStep := by
  simp [step, State.advance, h, asked, kept]

end

/-- Without a Reset and without events to come a step begins on a quiet board. -/
theorem begin_quiet {s : State} (asked : s.resetAsked = false) (env : s.board.env = []) : s.begin.Quiet := by
  unfold State.resetAsked at asked
  rw [Bool.or_eq_false_iff] at asked
  exact ⟨env, asked.1, rfl⟩

theorem irqAsked_eq_true (s : State) : s.irqAsked = true ↔ s.board.irqLow = true ∧ s.cc.i = false := by
  simp [State.irqAsked]

theorem irqAsked_eq_false (s : State) : s.irqAsked = false ↔ s.board.irqLow = false ∨ s.cc.i = true := by
  rw [State.irqAsked, Bool.and_eq_false_iff, Bool.not_eq_false']

/-! ## The end of every interrupt entry (R316, R319) -/

theorem stores_acknowledge (vec : Addr) (s : State) : Stores [] s (s.acknowledge vec) := by
  unfold State.acknowledge
  split <;> exact fun q => ⟨rfl, rfl, rfl, q⟩

@[simp] theorem ticks_acknowledge (vec : Addr) (s : State) : (s.acknowledge vec).ticks = s.ticks := by
  unfold State.acknowledge
  split <;> rfl

@[simp] theorem ticks_enter (vec : Addr) (s : State) : (s.enter vec).ticks = s.ticks + 2 := by
  have h : (s.enter vec).ticks = (s.mask.acknowledge vec).ticks + 2 := ticks_read16 vec _
  rw [h, ticks_acknowledge]
  rfl

/-- After stores, pc is loaded with the word that stands at a vector in RAM or ROM. -/
theorem Stores.enter_pc {l : List (Addr × Byte)} {s t : State} (h : Stores l s t) (q : s.Quiet) {vec : Addr}
    (v : s.VectorReadable vec) : (t.enter vec).pc = t.wordAt vec := by
  obtain ⟨m, m'⟩ := v
  have ack : Stores [] t (t.mask.acknowledge vec) := stores_acknowledge vec t.mask
  have q' : t.Quiet := (h q).2.2.2
  exact ((h.trans ack).read16_value q m m').trans (ack.wordAt_eq q' vec)

/-- On a quiet board a read of RAM or ROM samples no line, so the NMI latch stays. -/
theorem read8_nmiPending {s : State} (q : s.Quiet) {a : Addr} (h : s.isMemory a = true) :
    (s.read8 a).2.board.nmiPending = s.board.nmiPending := by
  rw [State.read8_board, Board.Quiet.busRead_memory q h]
  rfl

/-- What is RAM or ROM stays so through stores and reads of a quiet board. -/
theorem Stores.isMemory {l : List (Addr × Byte)} {s t : State} (h : Stores l s t) (q : s.Quiet) {a : Addr}
    (m : s.isMemory a = true) : t.isMemory a = true := by
  obtain ⟨-, map, -, -⟩ := h q
  unfold State.isMemory
  rw [map]
  exact m

/-- Taking the NMI through a vector in RAM or ROM leaves the latch clear (R36, R318). -/
theorem Stores.enter_nmiPending {l : List (Addr × Byte)} {s t : State} (h : Stores l s t) (q : s.Quiet)
    (v : s.VectorReadable vectorNmi) : (t.enter vectorNmi).board.nmiPending = false := by
  obtain ⟨m, m'⟩ := v
  have ack := h.trans (stores_acknowledge vectorNmi t.mask)
  have high := ack.trans (stores_read8 vectorNmi _)
  calc (t.enter vectorNmi).board.nmiPending
      = ((t.mask.acknowledge vectorNmi).read8 vectorNmi).2.board.nmiPending :=
        read8_nmiPending (high q).2.2.2 (high.isMemory q m')
    _ = (t.mask.acknowledge vectorNmi).board.nmiPending := read8_nmiPending (ack q).2.2.2 (ack.isMemory q m)
    _ = false := by rw [State.acknowledge, if_pos rfl]

/-! ## The entry from RUNNING (R316, R317) -/

/-- The frame depends on the registers alone. -/
theorem frame_idles (l : List BusCycle) (s : State) : (s.idles l).frame = s.frame := by simp [State.frame]

theorem stores_takeInterrupt (vec : Addr) (s : State) : Stores s.frame s (s.takeInterrupt vec) := by
  have frame := stores_pushFrame (s.idles [vmaLowUnstated, vmaLowUnstated])
  rw [frame_idles] at frame
  have h := (((stores_idles _ s).trans frame).trans (stores_idle vmaLowUnstated _)).trans (stores_enter vec _)
  rwa [List.nil_append, List.append_nil, List.append_nil] at h

theorem takeInterrupt_eq (vec : Addr) (s : State) :
    s.takeInterrupt vec =
      { s with sp := s.sp - 7, cc := { s.cc with i := true }, pc := (s.takeInterrupt vec).pc,
               board := (s.takeInterrupt vec).board } := by
  apply State.ext <;> simp [State.takeInterrupt]

@[simp] theorem ticks_takeInterrupt (vec : Addr) (s : State) : (s.takeInterrupt vec).ticks = s.ticks + 12 := by
  simp [State.takeInterrupt]

/-- The entry loads pc with the word that stands at the vector after the frame has been stored. -/
theorem takeInterrupt_pc {vec : Addr} {s : State} (q : s.Quiet) (v : s.VectorReadable vec) :
    (s.takeInterrupt vec).pc = (s.takeInterrupt vec).wordAt vec := by
  have h := ((stores_idles [vmaLowUnstated, vmaLowUnstated] s).trans (stores_pushFrame _)).trans
    (stores_idle vmaLowUnstated _)
  exact (h.enter_pc q v).trans ((stores_enter vec _).wordAt_eq (h q).2.2.2 vec).symm

/-! ## WAITING (R263, R323) -/

theorem stores_wake (vec : Addr) (s : State) : Stores [] s (s.wake vec) :=
  ((stores_idles [vmaLowUnstated, vmaLowUnstated] s).trans (stores_enter vec _)).of_board rfl rfl

theorem wake_eq (vec : Addr) (s : State) :
    s.wake vec =
      { s with run := .running, cc := { s.cc with i := true }, pc := (s.wake vec).pc, board := (s.wake vec).board } := by
  apply State.ext <;> simp [State.wake]

@[simp] theorem ticks_wake (vec : Addr) (s : State) : (s.wake vec).ticks = s.ticks + 4 := by
  have h : (s.wake vec).ticks = ((s.idles [vmaLowUnstated, vmaLowUnstated]).enter vec).ticks := rfl
  simp [h]

theorem wake_pc {vec : Addr} {s : State} (q : s.Quiet) (v : s.VectorReadable vec) : (s.wake vec).pc = s.wordAt vec :=
  have h := stores_idles [vmaLowUnstated, vmaLowUnstated] s
  (h.enter_pc q v).trans (h.wordAt_eq q vec)

theorem wake_nmiPending {s : State} (q : s.Quiet) (v : s.VectorReadable vectorNmi) :
    (s.wake vectorNmi).board.nmiPending = false :=
  (stores_idles [vmaLowUnstated, vmaLowUnstated] s).enter_nmiPending q v

/-- What a step in WAITING is: the wait goes on, or the NMI or the IRQ ends it. -/
theorem waitingStep_cases (s : State) :
    ((s.board.lines.haltLow = true ∨ s.board.nmiPending = false ∧ s.irqAsked = false) ∧
      s.waitingStep = s.idle .released) ∨
    (s.board.lines.haltLow = false ∧ s.board.nmiPending = true ∧ s.waitingStep = s.wake vectorNmi) ∨
    (s.board.lines.haltLow = false ∧ s.board.nmiPending = false ∧ s.irqAsked = true ∧
      s.waitingStep = s.wake vectorIrq) := by
  unfold State.waitingStep
  split
  case isTrue halt => exact .inl ⟨.inl halt, rfl⟩
  case isFalse halt =>
    split
    case isTrue nmi => exact .inr (.inl ⟨by simpa using halt, nmi, rfl⟩)
    case isFalse nmi =>
      split
      case isTrue irq => exact .inr (.inr ⟨by simpa using halt, by simpa using nmi, irq, rfl⟩)
      case isFalse irq => exact .inl ⟨.inr ⟨by simpa using nmi, by simpa using irq⟩, rfl⟩

/-- The cycle of an MPU that has stopped: the buses released, and nothing else on a quiet board. -/
theorem begin_released_trace {s : State} (q : s.begin.Quiet) : (s.begin.idle .released).board.trace = [.released] := by
  obtain ⟨-, -, -, -, trace⟩ := Board.Quiet.idle_same q .released
  exact trace

/-- Settles O45, by the three cases of a step in WAITING. -/
theorem waitEnds : Obligations.WaitEnds := by
  intro s run asked kept env
  have q := begin_quiet asked env
  rw [step_waiting asked kept run]
  rcases waitingStep_cases s.begin with ⟨why, e⟩ | ⟨halt, nmi, e⟩ | ⟨halt, nmi, irq, e⟩ <;> rw [e]
  case inl =>
    refine ⟨_, rfl, ((stores_idle _ _).kept q).1, fun _ => ⟨rfl, begin_released_trace q⟩, fun halt nmi => ?_,
      fun halt nmi low unmasked => ?_, fun _ _ => ⟨rfl, begin_released_trace q⟩⟩
    · simp [halt, nmi] at why
    · simp [halt, (irqAsked_eq_true s).2 ⟨low, unmasked⟩] at why
  case inr.inl =>
    exact ⟨_, rfl, ((stores_wake _ _).kept q).1, fun h => absurd h (Bool.eq_false_iff.1 halt),
      fun _ _ => ⟨wake_eq _ _, ticks_wake _ _, fun v => ⟨wake_pc q v, wake_nmiPending q v⟩⟩,
      fun _ h => absurd nmi (Bool.eq_false_iff.1 h), fun h => absurd nmi (Bool.eq_false_iff.1 h)⟩
  case inr.inr =>
    exact ⟨_, rfl, ((stores_wake _ _).kept q).1, fun h => absurd h (Bool.eq_false_iff.1 halt),
      fun _ h => absurd h (Bool.eq_false_iff.1 nmi),
      fun _ _ _ _ => ⟨wake_eq _ _, ticks_wake _ _, fun v => wake_pc q v⟩,
      fun _ h => absurd irq (Bool.eq_false_iff.1 ((irqAsked_eq_false s).2 h))⟩

/-! ## The samples of NMI and IRQ (R36, R325; log 38) -/

@[simp] theorem Board.sample_nmiLow (b : Board) : b.sample.nmiLow = b.nmiLow := rfl
@[simp] theorem Board.sample_irqLow (b : Board) : b.sample.irqLow = b.irqLow := rfl
@[simp] theorem Board.sample_nmiSeen (b : Board) : b.sample.nmiSeen = b.nmiLow := rfl
@[simp] theorem Board.sample_nmiPending (b : Board) :
    b.sample.nmiPending = (b.nmiPending || (b.nmiLow && !b.nmiSeen)) := rfl
@[simp] theorem Board.sample_irqSeen (b : Board) : b.sample.irqSeen = (b.irqSeen || b.irqLow) := rfl

/-- Nothing has been sampled between `b` and `c`: the latches and the last level of NMI are the same. -/
structure Board.SameLatches (b c : Board) : Prop where
  nmiPending : c.nmiPending = b.nmiPending
  nmiSeen : c.nmiSeen = b.nmiSeen
  irqSeen : c.irqSeen = b.irqSeen

/-- What one sample makes of the latches: a fall of NMI sets its latch, a low IRQ is noted. -/
theorem Board.SameLatches.sample_iff {b d : Board} (h : b.SameLatches d) :
    (d.sample.nmiPending = true ↔ b.nmiPending = true ∨ (d.sample.nmiLow = true ∧ b.nmiSeen = false)) ∧
      (d.sample.irqSeen = true ↔ b.irqSeen = true ∨ d.sample.irqLow = true) := by
  simp [h.nmiPending, h.nmiSeen, h.irqSeen]

/-- The event is no access of another master (R71). -/
def EnvEvent.NoAccess (e : EnvEvent) : Prop := (∀ a, e ≠ .masterRead a) ∧ ∀ a v, e ≠ .masterWrite a v

/-- An event that is no access samples once, after its whole effect. -/
theorem Board.event_sampled {e : EnvEvent} (h : e.NoAccess) (b : Board) : ∃ d, b.SameLatches d ∧ b.event e = d.sample := by
  refine ⟨(b.apply e).resetPias, ?_, rfl⟩
  cases e with
  | masterRead a => exact absurd rfl (h.1 a)
  | masterWrite a v => exact absurd rfl (h.2 a v)
  | _ => exact ⟨rfl, rfl, rfl⟩

theorem Board.event_irqSeen {e : EnvEvent} (h : e.NoAccess) (b : Board) :
    (b.event e).irqSeen = true ↔ b.irqSeen = true ∨ (b.event e).irqLow = true := by
  obtain ⟨d, same, eq⟩ := b.event_sampled h
  rw [eq]
  exact same.sample_iff.2

/-- What an access can do to the latches: it leaves them and the levels of the lines, or it samples once at its end. -/
def Board.AccessSampled (b c : Board) : Prop :=
  (b.SameLatches c ∧ c.nmiLow = b.nmiLow ∧ c.irqLow = b.irqLow) ∨ ∃ d, b.SameLatches d ∧ c = d.sample

theorem Board.AccessSampled.refl (b : Board) : b.AccessSampled b := .inl ⟨⟨rfl, rfl, rfl⟩, rfl, rfl⟩

theorem Board.AccessSampled.of_sample {b d : Board} (h : b.SameLatches d) : b.AccessSampled d.sample := .inr ⟨d, h, rfl⟩

theorem Board.accessSampled_bump (b : Board) : b.AccessSampled b.bump := .inl ⟨⟨rfl, rfl, rfl⟩, rfl, rfl⟩

theorem Board.accessRead_sampled (a : Addr) (b : Board) : b.AccessSampled (b.accessRead a).2 := by
  unfold Board.accessRead
  split
  · exact Board.AccessSampled.refl b
  · exact Board.AccessSampled.refl b
  · split
    · exact .of_sample ⟨rfl, rfl, rfl⟩
    · exact b.accessSampled_bump
  · split
    · exact .of_sample ⟨rfl, rfl, rfl⟩
    · exact b.accessSampled_bump
  · exact b.accessSampled_bump
  · exact b.accessSampled_bump

theorem Board.accessWrite_sampled (a : Addr) (v : Byte) (b : Board) : b.AccessSampled (b.accessWrite a v) := by
  unfold Board.accessWrite
  split
  · exact .inl ⟨⟨rfl, rfl, rfl⟩, rfl, rfl⟩
  · exact Board.AccessSampled.refl b
  · split
    · exact .of_sample ⟨rfl, rfl, rfl⟩
    · exact Board.AccessSampled.refl b
  · split
    · exact .of_sample ⟨rfl, rfl, rfl⟩
    · exact Board.AccessSampled.refl b
  · exact Board.AccessSampled.refl b
  · exact Board.AccessSampled.refl b

/-- Both kinds of access. -/
theorem Board.accesses_sampled {a : Addr} {v : Byte} {b c : Board} (h : c ∈ [(b.accessRead a).2, b.accessWrite a v]) :
    b.AccessSampled c := by
  rcases List.mem_pair.1 h with rfl | rfl
  · exact b.accessRead_sampled a
  · exact b.accessWrite_sampled a v

/-- An access to a board whose last sample of NMI is its level latches exactly a fall. -/
theorem Board.AccessSampled.nmi {b c : Board} (h : b.AccessSampled c) (seen : b.nmiSeen = b.nmiLow) :
    c.nmiSeen = c.nmiLow ∧ (c.nmiPending = true ↔ b.nmiPending = true ∨ (c.nmiLow = true ∧ b.nmiLow = false)) := by
  rcases h with ⟨same, nmi, -⟩ | ⟨d, same, rfl⟩
  · rw [same.nmiSeen, same.nmiPending, nmi, seen]
    simp
  · rw [← seen]
    exact ⟨rfl, same.sample_iff.1⟩

/-- An access to a board whose low IRQ has been noted notes exactly a low IRQ. -/
theorem Board.AccessSampled.irq {b c : Board} (h : b.AccessSampled c) (seen : b.irqLow = true → b.irqSeen = true) :
    c.irqSeen = true ↔ b.irqSeen = true ∨ c.irqLow = true := by
  rcases h with ⟨same, -, irq⟩ | ⟨d, same, rfl⟩
  · rw [same.irqSeen, irq]
    exact ⟨.inl, fun k => k.elim id seen⟩
  · exact same.sample_iff.2

/-- The wire-OR of a line, device by device (R311, R352, R375). -/
theorem Board.deviceLow_iff (w : Wire) (b : Board) :
    b.deviceLow w = true ↔
      (∃ p ∈ b.pias, (p.wireA = w ∧ p.sideA.irqLow = true) ∨ (p.wireB = w ∧ p.sideB.irqLow = true)) ∨
      ∃ p ∈ b.acias, p.wire = w ∧ p.irqLow = true := by
  simp [Board.deviceLow, Pia.holds, Acia.holds]

/-- Settles O60: the levels are a wire-OR, and every event and access samples at most once, at its end. -/
theorem interruptInputs : Obligations.InterruptInputs := by
  intro b
  refine ⟨?levels, ?events, ?fall, ?accessNmi, ?accessIrq⟩
  case levels =>
    rintro w (rfl | rfl)
    · simp [Board.irqLow, Board.deviceLow_iff]
    · simp [Board.nmiLow, Board.deviceLow_iff]
  case events =>
    intro e noRead noWrite
    obtain ⟨d, same, eq⟩ := b.event_sampled ⟨noRead, noWrite⟩
    rw [eq]
    exact ⟨rfl, same.sample_iff⟩
  case fall =>
    intro high
    obtain ⟨d, same, eq⟩ := b.event_sampled (e := .nmi true) ⟨nofun, nofun⟩
    have low : d.sample.nmiLow = true := by
      rw [← eq]
      rfl
    rw [eq]
    exact same.sample_iff.1.2 (.inr ⟨low, high⟩)
  case accessNmi => exact fun seen a v c hc => (Board.accesses_sampled hc).nmi seen
  case accessIrq => exact fun seen a v c hc => (Board.accesses_sampled hc).irq seen

/-! ## HALTED (R324, R325, decision D10) -/

/-- The board with another script to come and another record of the present step. -/
def Board.withCourse (env : List (List EnvEvent)) (trace : List BusCycle) (cut : Bool) (b : Board) : Board :=
  { b with env := env, trace := trace, cut := cut }

/-- An event that is no access looks neither at the script nor at the record of the step. -/
theorem Board.event_withCourse {e : EnvEvent} (h : e.NoAccess) (env : List (List EnvEvent)) (trace : List BusCycle)
    (cut : Bool) (b : Board) : (b.withCourse env trace cut).event e = (b.event e).withCourse env trace cut := by
  cases e with
  | masterRead a => exact absurd rfl (h.1 a)
  | masterWrite a v => exact absurd rfl (h.2 a v)
  | _ => rfl

theorem Board.events_withCourse {es : List EnvEvent} (h : ∀ e ∈ es, e.NoAccess) (env : List (List EnvEvent))
    (trace : List BusCycle) (cut : Bool) (b : Board) :
    es.foldl Board.event (b.withCourse env trace cut) = (es.foldl Board.event b).withCourse env trace cut := by
  induction es generalizing b with
  | nil => rfl
  | cons e rest ih =>
    rw [List.foldl_cons, List.foldl_cons, Board.event_withCourse (h e List.mem_cons_self)]
    exact ih (fun e' he => h e' (List.mem_cons_of_mem _ he)) (b.event e)

/-- A low IRQ is noted by a batch exactly if it was noted before or the line is low after one of its events. -/
theorem Board.events_irqSeen {es : List EnvEvent} (h : ∀ e ∈ es, e.NoAccess) (b : Board) :
    (es.foldl Board.event b).irqSeen = true ↔
      b.irqSeen = true ∨ ∃ k < es.length, ((es.take (k + 1)).foldl Board.event b).irqLow = true := by
  induction es generalizing b with
  | nil => simp
  | cons e rest ih =>
    rw [List.foldl_cons, ih (fun e' he => h e' (List.mem_cons_of_mem _ he)), Board.event_irqSeen (h e List.mem_cons_self),
      List.length_cons, Nat.exists_lt_succ_left, or_assoc]
    rfl

/-- Only the batch of a VMA = 0 cycle can note an IRQ. -/
theorem Board.idle_irqSeen (c : BusCycle) (b : Board) : (b.idle c).irqSeen = b.batch.irqSeen := by
  have tick : b.batch.resetTick.irqSeen = b.batch.irqSeen := by
    unfold Board.resetTick
    split <;> rfl
  exact tick

/-- With nothing to come there is no batch. -/
theorem Board.batch_of_silent {b : Board} (h : b.env = []) : b.batch = b := by
  unfold Board.batch
  rw [h]

theorem Board.batch_of_cons {b : Board} {events : List EnvEvent} {rest : List (List EnvEvent)} (h : b.env = events :: rest) :
    b.batch = events.foldl Board.event { b with env := rest } := by
  unfold Board.batch
  rw [h]

theorem runningStep_halt {s : State} (h : s.board.lines.haltLow = true) : s.runningStep = .next s.halt := if_pos h

theorem haltedStep_low {s : State} (h : s.board.lines.haltLow = true) : s.haltedStep = s.idle .released := if_pos h

theorem haltedStep_high {s : State} (h : s.board.lines.haltLow = false) :
    s.haltedStep =
      { s with run := .running, haltIrq := s.haltIrq || (s.board.irqSeen && !s.board.irqLow && !s.cc.i) } :=
  if_neg (by simp [h])

/-- The state in which the free choice of decision D10 is made: the IRQ no longer remembered, the choice drawn. -/
def State.forgetIrq (s : State) : State := { s with haltIrq := false, board := s.board.bump }

/-- The one nondeterministic case of decision D10 at a boundary: the free bit takes the IRQ or lets the step run on. -/
theorem runningStep_remembered {s : State} (halt : s.board.lines.haltLow = false) (nmi : s.board.nmiPending = false)
    (high : s.board.irqLow = false) (i : s.cc.i = false) (remembered : s.haltIrq = true) :
    s.runningStep =
      if Config.freeBit s.board.free then .next (s.forgetIrq.takeInterrupt vectorIrq) else s.forgetIrq.runInstr := by
  have asks : s.irqAsked = false := (irqAsked_eq_false s).2 (.inl high)
  unfold State.runningStep
  rw [if_neg (by simp [halt]), if_neg (by simp [nmi]), if_neg (by simp [asks]), if_pos (by simp [remembered, i])]
  rfl

/-- With nothing to serve and nothing remembered an instruction runs. -/
theorem runningStep_instr {s : State} (halt : s.board.lines.haltLow = false) (nmi : s.board.nmiPending = false)
    (high : s.board.irqLow = false) (nothing : s.haltIrq = false) : s.runningStep = s.runInstr := by
  simp [State.runningStep, State.irqAsked, halt, nmi, high, nothing]

/-- In HALTED a batch without accesses of other masters is watched for a low IRQ (R325). -/
theorem idle_begin_irqSeen {s : State} {events : List EnvEvent} {rest : List (List EnvEvent)}
    (env : s.board.env = events :: rest) (quiet : ∀ e ∈ events, e.NoAccess) (c : BusCycle) :
    (s.begin.idle c).board.irqSeen = (events.foldl Board.event s.board).irqSeen := by
  rw [State.idle_board, Board.idle_irqSeen, Board.batch_of_cons (b := s.begin.board) env]
  show (events.foldl Board.event (s.board.withCourse rest [] false)).irqSeen = _
  rw [Board.events_withCourse quiet]
  rfl

/-- Settles O46, clause by clause. -/
theorem haltedMachine : Obligations.HaltedMachine := by
  intro s
  refine ⟨?enter, fun run asked kept env => ⟨?stay, ?leave⟩, ?watch, ?remembered⟩
  case enter =>
    rintro ⟨run, asked, kept, -⟩ halt
    rw [step_running asked kept run, runningStep_halt (s := s.begin) halt]
    exact ⟨_, rfl, rfl, fun _ => rfl, rfl, rfl⟩
  case stay =>
    intro halt
    have q := begin_quiet asked env
    rw [step_halted asked kept run, haltedStep_low (s := s.begin) halt]
    refine ⟨_, rfl, rfl, ((stores_idle _ _).kept q).1, begin_released_trace q, ?_⟩
    rw [State.idle_board, Board.idle_irqSeen, Board.batch_of_silent q.1]
    rfl
  case leave =>
    intro halt
    rw [step_halted asked kept run, haltedStep_high (s := s.begin) halt]
    refine ⟨_, rfl, rfl, ?_, fun _ => rfl, rfl⟩
    show (s.haltIrq || (s.board.irqSeen && !s.board.irqLow && !s.cc.i)) = true ↔ _
    simp [and_assoc]
  case watch =>
    intro run asked kept halt events rest env quiet
    rw [step_halted asked kept run, haltedStep_low (s := s.begin) halt]
    refine ⟨_, rfl, rfl, ?_⟩
    rw [idle_begin_irqSeen env quiet]
    exact Board.events_irqSeen quiet s.board
  case remembered =>
    rintro ⟨run, asked, kept, env⟩ halt nmi high i remembered
    have q := begin_quiet asked env
    have choice := runningStep_remembered (s := s.begin) halt nmi high i remembered
    refine ⟨fun taken => ?_, fun refused => ?_⟩
    · refine ⟨s.begin.forgetIrq.takeInterrupt vectorIrq, ?_, takeInterrupt_eq _ _, ?_, ticks_takeInterrupt _ _,
        fun v => takeInterrupt_pc (s := s.begin.forgetIrq) q v⟩
      · rw [step_running asked kept run, choice]
        exact if_pos taken
      · exact (Stores.of_board (stores_takeInterrupt vectorIrq s.begin.forgetIrq) rfl rfl).frame
    · have again : step s.forgetIrq = s.begin.forgetIrq.runInstr := by
        rw [step_running (s := s.forgetIrq) asked kept run]
        exact runningStep_instr halt nmi high rfl
      rw [step_running asked kept run, choice]
      exact (if_neg (by simp [refused])).trans again.symm

/-! ## The state after reset (R41, R343, R362, R403) -/

/-- Settles O51: the reset state is a literal, and its one PIA and one ACIA are `Pia.atReset` and `Acia.atPowerOn`. -/
theorem stateAtReset : Obligations.StateAtReset := by
  refine ⟨rfl, rfl, rfl, rfl, fun p hp => ?_, fun p hp => ?_⟩
  · obtain rfl : p = Pia.atReset := List.mem_singleton.1 hp
    exact ⟨rfl, rfl, rfl, rfl, rfl, rfl⟩
  · obtain rfl : p = Acia.atPowerOn := List.mem_singleton.1 hp
    rfl

end Sys2Proof.Machine

namespace Sys2Proof.Machine

/-! ## What every step keeps (R333) -/

/-- At a boundary only the run state changes, and which IRQ is watched for. -/
theorem keeps_halt (s : State) : s.Keeps s.halt := Board.Keeps.of_eq rfl rfl rfl rfl rfl

theorem keeps_haltedStep (s : State) : s.Keeps s.haltedStep := by
  unfold State.haltedStep
  split
  case isTrue => exact keeps_idle _ s
  case isFalse => exact State.Keeps.refl s

theorem keeps_waitingStep (s : State) : s.Keeps s.waitingStep := by
  rcases waitingStep_cases s with ⟨-, e⟩ | ⟨-, -, e⟩ | ⟨-, -, -, e⟩ <;> rw [e]
  case inl => exact keeps_idle _ s
  case inr.inl => exact keeps_wake _ s
  case inr.inr => exact keeps_wake _ s

/-- What a step in RESET is: one more cycle of a low line, free MPU state, or the restart. -/
theorem resetStep_cases (s : State) :
    s.resetStep = s.idle vmaLowUnstated ∨ s.resetStep = s.scramble ∨ s.resetStep = s.restart := by
  unfold State.resetStep
  split
  case isTrue => exact .inl rfl
  case isFalse =>
    split <;> split
    case h_1.isTrue | h_2.isTrue => exact .inr (.inl rfl)
    case h_1.isFalse | h_2.isFalse => exact .inr (.inr rfl)

theorem keeps_resetStep (s : State) : s.Keeps s.resetStep := by
  rcases resetStep_cases s with e | e | e <;> rw [e]
  case inl => exact keeps_idle _ s
  case inr.inl => exact keeps_scramble s
  case inr.inr => exact keeps_restart s

/-- The fetch of one to three bytes, then what the meaning keeps. -/
theorem runInstr_keeps {s t : State} (h : s.runInstr = .next t) : s.Keeps t := by
  unfold State.runInstr at h
  dsimp only at h
  split at h
  case isTrue =>
    cases h
    exact keeps_fetch8 s
  case isFalse =>
    split at h
    case h_1 => cases h
    case h_2 => exact (keeps_fetch8 s).trans (exec_next_keeps h)
    case h_3 => exact ((keeps_fetch8 s).trans (keeps_fetch8 _)).trans (exec_next_keeps h)
    case h_4 => exact ((keeps_fetch8 s).trans (keeps_fetch16 _)).trans (exec_next_keeps h)

theorem haltIrqStep_keeps {s t : State} (h : s.haltIrqStep = .next t) : s.Keeps t := by
  have drawn : s.Keeps (State.drawBit { s with haltIrq := false }).2 := keeps_drawBit _
  unfold State.haltIrqStep at h
  dsimp only at h
  split at h
  case isTrue =>
    cases h
    exact drawn.trans (keeps_takeInterrupt _ _)
  case isFalse => exact drawn.trans (runInstr_keeps h)

theorem runningStep_keeps {s t : State} (h : s.runningStep = .next t) : s.Keeps t := by
  unfold State.runningStep at h
  split at h
  case isTrue =>
    cases h
    exact keeps_halt s
  case isFalse =>
    split at h
    case isTrue =>
      cases h
      exact keeps_takeInterrupt _ s
    case isFalse =>
      split at h
      case isTrue =>
        cases h
        exact keeps_takeInterrupt vectorIrq { s with haltIrq := false }
      case isFalse =>
        split at h
        case isTrue => exact haltIrqStep_keeps h
        case isFalse => exact runInstr_keeps h

/-- What a step is: it begins, and then Reset, lost clocks or the run state decide. -/
theorem step_cases {s t : State} (h : step s = .next t) :
    t = s.begin.resetStep ∨ t = { s.begin with run := .reset } ∨ t = s.begin.scramble ∨ t = s.begin.haltedStep ∨
      t = s.begin.waitingStep ∨ s.begin.runningStep = .next t := by
  unfold step State.advance at h
  dsimp only at h
  split at h
  case isTrue =>
    cases h
    exact .inl rfl
  case isFalse =>
    split at h
    case isTrue =>
      cases h
      exact .inr (.inl rfl)
    case isFalse =>
      split at h
      case isTrue =>
        cases h
        exact .inr (.inr (.inl rfl))
      case isFalse =>
        split at h
        case h_1 =>
          cases h
          exact .inl rfl
        case h_2 =>
          cases h
          exact .inr (.inr (.inr (.inl rfl)))
        case h_3 =>
          cases h
          exact .inr (.inr (.inr (.inr (.inl rfl))))
        case h_4 => exact .inr (.inr (.inr (.inr (.inr h))))

/-- Every step keeps what every bus operation keeps, whatever the environment does. -/
theorem step_keeps {s t : State} (h : step s = .next t) : s.Keeps t := by
  refine (keeps_begin s).trans ?_
  rcases step_cases h with rfl | rfl | rfl | rfl | rfl | h
  · exact keeps_resetStep _
  · exact State.Keeps.refl _
  · exact keeps_scramble _
  · exact keeps_haltedStep _
  · exact keeps_waitingStep _
  · exact runningStep_keeps h

/-- Settles O48: what every step keeps includes the invariant. -/
theorem stepKeepsTheInvariant : Obligations.StepKeepsTheInvariant := fun _ _ inv h => (step_keeps h).inv inv

/-- Settles O50: what every step keeps includes the map and the bytes outside RAM. -/
theorem onlyRamChanges : Obligations.OnlyRamChanges := by
  intro s t h
  have keeps : s.board.Keeps t.board := step_keeps h
  exact ⟨keeps.map, fun a notRam => keeps.rom a.toNat notRam⟩

/-- Settles O49: the reset state is a literal; its map, memory and devices are checked one by one. -/
theorem resetHasTheInvariant : Obligations.ResetHasTheInvariant := by
  refine ⟨?memory, ?map, ?devices, ?pias, ?acias, ?held⟩
  case memory => exact Memory.wf_nil
  case map => exact (by decide : Config.resetMap.wf = true)
  case devices => rfl
  case pias => rfl
  case acias => rfl
  case held => rfl

/-! ## Canonical memories are equal when they read alike (R50) -/

/-- A canonical list lists nothing below its first cell. -/
theorem Memory.wfFrom_head {lo : Nat} {p : Nat × Byte} {rest : Memory} (h : Memory.wfFrom lo (p :: rest) = true) :
    Memory.wfFrom p.1 (p :: rest) = true := by
  rw [Memory.wfFrom_cons] at h ⊢
  exact ⟨le_rfl, h.2⟩

/-- What the first cell of a canonical list reads as is not what an unlisted address reads as. -/
theorem Memory.read_head {lo : Nat} {p : Nat × Byte} {rest : Memory} (h : Memory.wfFrom lo (p :: rest) = true) :
    Memory.read (p :: rest) p.1 = p.2 ∧ p.2 ≠ Config.unlisted := by
  obtain ⟨-, -, listed, -⟩ := (Memory.wfFrom_cons lo p rest).1 h
  exact ⟨if_pos rfl, listed⟩

/-- A canonical list that reads as `p :: rest` does starts no later. -/
theorem Memory.head_le {lo : Nat} {p q : Nat × Byte} {rest rest' : Memory} (hp : Memory.wfFrom lo (p :: rest) = true)
    (hq : Memory.wfFrom lo (q :: rest') = true)
    (alike : ∀ c, Memory.read (q :: rest') c = Memory.read (p :: rest) c) : q.1 ≤ p.1 := by
  obtain ⟨read, listed⟩ := Memory.read_head hp
  by_contra later
  have below := Memory.read_below (Memory.wfFrom_head hq) (Nat.lt_of_not_le later)
  exact listed (read.symm.trans ((alike p.1).symm.trans below))

/-- Canonical lists that read alike everywhere have the same cells. -/
theorem Memory.eq_of_read {lo : Nat} {m m' : Memory} (hm : Memory.wfFrom lo m = true)
    (hm' : Memory.wfFrom lo m' = true) (alike : ∀ c, m'.read c = m.read c) : m' = m := by
  induction m generalizing lo m' with
  | nil =>
    cases m' with
    | nil => rfl
    | cons q rest' =>
      obtain ⟨read, listed⟩ := Memory.read_head hm'
      exact absurd (read.symm.trans (alike q.1)) listed
  | cons p rest ih =>
    cases m' with
    | nil =>
      obtain ⟨read, listed⟩ := Memory.read_head hm
      exact absurd (read.symm.trans (alike p.1).symm) listed
    | cons q rest' =>
      have address : q.1 = p.1 :=
        le_antisymm (Memory.head_le hm hm' alike) (Memory.head_le hm' hm fun c => (alike c).symm)
      have byte : q.2 = p.2 := by
        rw [← (Memory.read_head hm).1, ← alike p.1, ← address, (Memory.read_head hm').1]
      obtain rfl : q = p := Prod.ext address byte
      obtain ⟨-, -, -, wf⟩ := (Memory.wfFrom_cons lo q rest).1 hm
      obtain ⟨-, -, -, wf'⟩ := (Memory.wfFrom_cons lo q rest').1 hm'
      refine congrArg (q :: ·) (ih wf wf' fun c => ?_)
      by_cases below : c < q.1 + 1
      · rw [Memory.read_below wf below, Memory.read_below wf' below]
      · have other : q.1 ≠ c := by omega
        simpa only [Memory.read_cons, if_neg other] using alike c

/-- Settles O11: reads after a write, the form it keeps, and that reads determine a canonical memory. -/
theorem storedByteIsReadBack : Obligations.StoredByteIsReadBack := fun _ a v wf =>
  ⟨fun c => Memory.read_write wf a.toNat c v, Memory.wf_write wf a.isLt v,
    fun _ wf' alike => Memory.eq_of_read wf wf' alike⟩

/-! ## The return from a subroutine (R57, R261) -/

/-- Settles O34: RTS reads the byte after it and makes a VMA = 0 cycle, then pulls pc. -/
theorem returnFromSubroutine : Obligations.ReturnFromSubroutine := by
  intro s
  refine ⟨rtsOp s, rfl, ?frame, (stores_rtsOp s).kept, fun q m m' => ?pulled⟩
  case frame => apply State.ext <;> simp [rtsOp]
  case pulled =>
    have next : s.sp + 1 + 1 = s.sp + 2 := by rw [BitVec.add_assoc]; rfl
    exact ((stores_inherent s).trans (stores_idle (vmaLow s.sp) _)).pull16_value q rfl m (next ▸ m')

/-! ## An access to each kind of region (R66, R68, R340, R360, R383) -/

theorem MemMap.isMemory_congr {m : MemMap} {a c : Nat} (h : m.home a = m.home c) : m.isMemory a = m.isMemory c := by
  unfold MemMap.isMemory
  rw [MemMap.regionAt_congr h]

theorem MemMap.isRam_eq_false {m : MemMap} {a : Nat} (h : m.regionAt a = none) : m.isRam a = false := by
  simp [MemMap.isRam, h]

theorem MemMap.piaAt_eq {m : MemMap} {a n first off : Nat} (h : m.regionAt a = some (.pia n first, off)) :
    m.piaAt a = some n := by
  simp [MemMap.piaAt, h]

theorem MemMap.home_mirror {m : MemMap} {a target off : Nat} (h : m.findAt a = some (.mirror target, off)) :
    m.home a = (target + off) % 65536 := by
  simp [MemMap.home, h]

theorem Board.setPia_get {b : Board} {n : Nat} {p : Pia} (h : b.pias[n]? = some p) (q : Pia) :
    (b.setPia n q).pias[n]? = some (q.settle b.lines.resetLow) := by
  have inside : n < b.pias.length := (List.getElem?_eq_some_iff.1 h).1
  simp [Board.setPia, inside]

section
variable {b : Board} {a : Addr} {n first off : Nat}

/-- Where nothing is selected a read takes the next free value (decision D5). -/
theorem Board.accessRead_none (h : b.map.regionAt a.toNat = none) :
    b.accessRead a = (Config.freeByte b.free, b.bump) := by
  simp [Board.accessRead, h]

theorem Board.accessRead_pia {p : Pia} (h : b.map.regionAt a.toNat = some (.pia n first, off))
    (hp : b.pias[n]? = some p) :
    b.accessRead a = ((p.read (first + off)).1, (b.setPia n (p.read (first + off)).2).sample) := by
  simp [Board.accessRead, h, hp]

theorem Board.accessWrite_pia {p : Pia} (h : b.map.regionAt a.toNat = some (.pia n first, off))
    (hp : b.pias[n]? = some p) (v : Byte) :
    b.accessWrite a v = (b.bump.setPia n (p.write (Config.freeByte b.free) (first + off) v)).sample := by
  simp [Board.accessWrite, h, hp]

theorem Board.accessRead_acia {p : Acia} (h : b.map.regionAt a.toNat = some (.acia n first, off))
    (hp : b.acias[n]? = some p) :
    (b.accessRead a).1 = (p.read (Config.freeByte b.free) (first + off)).1 ∧
      (b.accessRead a).2.acias = b.acias.set n (p.read (Config.freeByte b.free) (first + off)).2 := by
  simp [Board.accessRead, h, hp, Board.sample]

theorem Board.accessWrite_acia {p : Acia} (h : b.map.regionAt a.toNat = some (.acia n first, off))
    (hp : b.acias[n]? = some p) (v : Byte) :
    (b.accessWrite a v).acias = b.acias.set n (p.write (first + off) v) := by
  simp [Board.accessWrite, h, hp, Board.sample]

/-- The PIA that a cycle addresses sees a selected E pulse, and its Reset pin holds it. -/
theorem Board.ePulse_get {p : Pia} (hp : b.pias[n]? = some p) :
    (b.ePulse (some n)).pias[n]? = some ((p.ePulse true).settle b.lines.resetLow) := by
  simp [Board.ePulse, hp]

/-! ## A cycle of a quiet board on each kind of region -/

/-- A read cycle of a quiet board is the E pulse, the access and the record of it. -/
theorem Board.Quiet.busRead_eq (q : b.Quiet) (a : Addr) :
    b.busRead a =
      (((b.ePulse (b.map.piaAt a.toNat)).accessRead a).1,
        ((b.ePulse (b.map.piaAt a.toNat)).accessRead a).2.record
          (.read a ((b.ePulse (b.map.piaAt a.toNat)).accessRead a).1)) := by
  have ⟨_, _, uncut⟩ := q
  unfold Board.busRead
  rw [q.cycle_eq]
  exact if_neg (by simpa [Board.ePulse] using uncut)

/-- The same for a write cycle. -/
theorem Board.Quiet.busWrite_eq (q : b.Quiet) (a : Addr) (v : Byte) :
    b.busWrite a v = ((b.ePulse (b.map.piaAt a.toNat)).accessWrite a v).record (.write a v) := by
  have ⟨_, _, uncut⟩ := q
  unfold Board.busWrite
  rw [q.cycle_eq]
  exact if_neg (by simpa [Board.ePulse] using uncut)

/-- What the two accesses of a quiet board make of a PIA and return, as far as its Reset pin lets them. -/
theorem Board.Quiet.bus_pia {p : Pia} (q : b.Quiet) (h : b.map.regionAt a.toNat = some (.pia n first, off))
    (hp : b.pias[n]? = some p) (v : Byte) :
    (b.busRead a).1 = (((p.ePulse true).settle false).read (first + off)).1 ∧
      (b.busRead a).2.pias[n]? = some ((((p.ePulse true).settle false).read (first + off)).2.settle false) ∧
      (b.busWrite a v).pias[n]? =
        some ((((p.ePulse true).settle false).write (Config.freeByte b.free) (first + off) v).settle false) := by
  have ⟨_, high, _⟩ := q
  have pulsed := Board.ePulse_get hp
  rw [high] at pulsed
  have region : (b.ePulse (some n)).map.regionAt a.toNat = some (.pia n first, off) := h
  have line : (b.ePulse (some n)).lines.resetLow = false := high
  rw [q.busRead_eq, q.busWrite_eq, MemMap.piaAt_eq h, Board.accessRead_pia region pulsed,
    Board.accessWrite_pia region pulsed v]
  refine ⟨rfl, ?_, ?_⟩
  · exact line ▸ Board.setPia_get pulsed _
  · exact line ▸ Board.setPia_get (b := (b.ePulse (some n)).bump) pulsed _

/-- What the two accesses of a quiet board make of an ACIA and return: no E pulse reaches it. -/
theorem Board.Quiet.bus_acia {p : Acia} (q : b.Quiet) (h : b.map.regionAt a.toNat = some (.acia n first, off))
    (hp : b.acias[n]? = some p) (v : Byte) :
    (b.busRead a).1 = (p.read (Config.freeByte b.free) (first + off)).1 ∧
      (b.busRead a).2.acias[n]? = some (p.read (Config.freeByte b.free) (first + off)).2 ∧
      (b.busWrite a v).acias[n]? = some (p.write (first + off) v) := by
  have inside : n < b.acias.length := (List.getElem?_eq_some_iff.1 hp).1
  obtain ⟨value, left⟩ := Board.accessRead_acia (b := b.ePulse (b.map.piaAt a.toNat)) h hp
  have written := Board.accessWrite_acia (b := b.ePulse (b.map.piaAt a.toNat)) h hp v
  rw [q.busRead_eq, q.busWrite_eq]
  refine ⟨value, ?_, ?_⟩
  · exact (congrArg (·[n]?) left).trans (List.getElem?_set_self inside)
  · exact (congrArg (·[n]?) written).trans (List.getElem?_set_self inside)

end

/-- With its Reset pin high a PIA stays what an E pulse, or an access after one, has made of it. -/
theorem Pia.settle_of_free {p : Pia} {low : Bool} (free : p.held low = false) (off : Nat) (byte v : Byte) :
    (p.ePulse true).settle low = p.ePulse true ∧
      ((p.ePulse true).read off).2.settle low = ((p.ePulse true).read off).2 ∧
      ((p.ePulse true).write byte off v).settle low = (p.ePulse true).write byte off v := by
  have pulsed : (p.ePulse true).held low = false := free
  exact ⟨Pia.settle_free pulsed, Pia.settle_free ((Pia.read_reset low off _).1.trans pulsed),
    Pia.settle_free ((Pia.write_reset low byte off v _).1.trans pulsed)⟩

/-- With its Reset pin low a PIA is reset again after any access (R343). -/
theorem Pia.settle_of_held {p : Pia} {low : Bool} (held : p.held low = true) (off : Nat) (byte v : Byte) :
    (((p.ePulse true).settle low).read off).2.settle low = p.reset ∧
      (((p.ePulse true).settle low).write byte off v).settle low = p.reset := by
  have pulsed : (p.ePulse true).settle low = p.reset := Pia.settle_held (p := p.ePulse true) held
  rw [pulsed]
  obtain ⟨readHeld, readReset⟩ := Pia.read_reset low off p.reset
  obtain ⟨writeHeld, writeReset⟩ := Pia.write_reset low byte off v p.reset
  exact ⟨(Pia.settle_held (readHeld.trans held)).trans readReset,
    (Pia.settle_held (writeHeld.trans held)).trans writeReset⟩

/-- Settles O10, kind of region by kind of region. -/
theorem busAccessByRegion : Obligations.BusAccessByRegion := by
  intro b a v q
  obtain ⟨written, -⟩ := q.busWrite_same a v
  refine ⟨fun memory => ?memory, fun nothing => ?nothing, fun ram => ?ram, fun other => ?other,
    fun n first off p region hp free => ?pia, fun n first off p region hp held => ?heldPia,
    fun n first off p region hp => q.bus_acia region hp v, fun c home memory => ?alike,
    fun _ _ => MemMap.home_mirror, MemMap.home_eq⟩
  case memory =>
    rw [q.busRead_memory memory]
    exact ⟨rfl, rfl, rfl, rfl⟩
  case nothing =>
    rw [q.busRead_eq, Board.accessRead_none (b := b.ePulse _) nothing, written,
      if_neg (by simp [MemMap.isRam_eq_false nothing])]
    exact ⟨rfl, rfl, rfl⟩
  case ram => exact written.trans (if_pos ram)
  case other => exact written.trans (if_neg (by simp [other]))
  case pia =>
    obtain ⟨pulsed, read, wrote⟩ := Pia.settle_of_free free (first + off) (Config.freeByte b.free) v
    have bus := q.bus_pia region hp v
    rwa [pulsed, read, wrote] at bus
  case heldPia =>
    obtain ⟨read, wrote⟩ := Pia.settle_of_held held (first + off) (Config.freeByte b.free) v
    obtain ⟨-, readLeft, writeLeft⟩ := q.bus_pia region hp v
    rw [read] at readLeft
    rw [wrote] at writeLeft
    exact ⟨readLeft, writeLeft⟩
  case alike =>
    have same : b.byteAt c.toNat = b.byteAt a.toNat := congrArg b.mem.read home
    rw [q.busRead_value memory, q.busRead_value (MemMap.isMemory_congr home ▸ memory), same]

/-! ## The machine cycles of every operation, on every board and on a quiet one (R40, R52, R65) -/

/-- What the machine cycles of the present step show on the bus, in order. -/
def State.uses (s : State) : List BusUse := s.board.trace.map BusCycle.use

/-- `t` comes from `s` by as many machine cycles as `l` lists; on a quiet board they are those of `l`, in order. -/
structure MakesCycles (l : List BusUse) (s t : State) : Prop where
  count : t.ticks = s.ticks + l.length
  quiet : s.Quiet → t.Quiet ∧ t.uses = s.uses ++ l

section
variable {l l' : List BusUse} {s t u : State}

theorem MakesCycles.refl (s : State) : MakesCycles [] s s := ⟨rfl, fun q => ⟨q, (List.append_nil _).symm⟩⟩

theorem MakesCycles.trans (h : MakesCycles l s t) (k : MakesCycles l' t u) : MakesCycles (l ++ l') s u := by
  refine ⟨by rw [k.count, h.count, List.length_append, Nat.add_assoc], fun q => ?_⟩
  obtain ⟨qt, shown⟩ := h.quiet q
  obtain ⟨qu, shown'⟩ := k.quiet qt
  exact ⟨qu, by rw [shown', shown, List.append_assoc]⟩

/-- Only the board matters. -/
theorem MakesCycles.of_board (h : MakesCycles l s t) (e : u.board = t.board) : MakesCycles l s u := by
  obtain ⟨count, quiet⟩ := h
  constructor <;> simp only [State.ticks, State.Quiet, State.uses, e] at count quiet ⊢
  · exact count
  · exact quiet

/-- One machine cycle, recorded as `c` on a quiet board. -/
theorem MakesCycles.of_record {c : BusCycle} (count : t.ticks = s.ticks + 1)
    (quiet : s.Quiet → t.Quiet ∧ t.board.trace = s.board.trace ++ [c]) : MakesCycles [c.use] s t := by
  refine ⟨count, fun q => ?_⟩
  obtain ⟨qt, recorded⟩ := quiet q
  exact ⟨qt, by rw [State.uses, State.uses, recorded, List.map_append]; rfl⟩

end

section
variable (s : State)

theorem makes_read8 (a : Addr) : MakesCycles [.read a] s (s.read8 a).2 :=
  .of_record (c := .read a (s.read8 a).1) (ticks_read8 a s) fun q => by
    obtain ⟨-, -, -, quiet, recorded⟩ := Board.Quiet.busRead_same q a
    exact ⟨quiet, recorded⟩

theorem makes_write8 (a : Addr) (v : Byte) : MakesCycles [.write a] s (s.write8 a v) :=
  .of_record (c := .write a v) (ticks_write8 a v s) fun q => by
    obtain ⟨-, -, -, quiet, recorded⟩ := Board.Quiet.busWrite_same q a v
    exact ⟨quiet, recorded⟩

theorem makes_idle (c : BusCycle) : MakesCycles [c.use] s (s.idle c) :=
  .of_record (ticks_idle c s) fun q => by
    obtain ⟨-, -, -, quiet, recorded⟩ := Board.Quiet.idle_same q c
    exact ⟨quiet, recorded⟩

theorem makes_idles (l : List BusCycle) : MakesCycles (l.map BusCycle.use) s (s.idles l) := by
  induction l generalizing s with
  | nil => exact .refl s
  | cons c rest ih => exact (makes_idle s c).trans (ih (s.idle c))

theorem makes_inherent : MakesCycles [.read s.pc] s s.inherent := makes_read8 s s.pc

theorem makes_read16 (a : Addr) : MakesCycles [.read a, .read (a + 1)] s (s.read16 a).2 :=
  (makes_read8 s a).trans (makes_read8 _ (a + 1))

theorem makes_write16 (a : Addr) (v : Word) : MakesCycles [.write a, .write (a + 1)] s (s.write16 a v) :=
  (makes_write8 s a _).trans (makes_write8 _ (a + 1) _)

theorem makes_push8 (v : Byte) : MakesCycles [.write s.sp] s (s.push8 v) := (makes_write8 s s.sp v).of_board rfl

theorem makes_pull8 : MakesCycles [.read (s.sp + 1)] s s.pull8.2 := (makes_read8 s (s.sp + 1)).of_board rfl

theorem makes_push16 (v : Word) : MakesCycles [.write s.sp, .write (s.sp - 1)] s (s.push16 v) :=
  (makes_push8 s (lo v)).trans (makes_push8 (s.push8 (lo v)) (hi v))

theorem makes_pull16 : MakesCycles [.read (s.sp + 1), .read (s.sp + 2)] s s.pull16.2 := by
  have h := (makes_pull8 s).trans (makes_pull8 _)
  rwa [State.pull8_sp, BitVec.add_assoc] at h

/-- The seven writes of a frame go down from SP (R317). -/
theorem makes_pushFrame :
    MakesCycles ((List.range 7).map fun k => .write (s.sp - BitVec.ofNat 16 k)) s s.pushFrame := by
  have h := ((((makes_push16 s s.pc).trans (makes_push16 _ s.x)).trans (makes_push8 _ s.a)).trans
    (makes_push8 _ s.b)).trans (makes_push8 _ s.cc.toByte)
  simpa [State.pushFrame, List.range_succ, sub_sub] using h

/-- The seven reads of a frame go up from SP + 1 (R321). -/
theorem makes_pullFrame :
    MakesCycles ((List.range 7).map fun k => .read (s.sp + 1 + BitVec.ofNat 16 k)) s s.pullFrame := by
  have h := ((((makes_pull8 s).trans (makes_pull8 _)).trans (makes_pull8 _)).trans (makes_pull16 _)).trans
    (makes_pull16 _)
  have h' : MakesCycles _ s s.pullFrame := h.of_board rfl
  simpa [List.range_succ, BitVec.add_assoc] using h'

/-- No cycle passes between the frame and the vector; pc is read from there (R316, R319). -/
theorem makes_enter (vec : Addr) : MakesCycles [.read vec, .read (vec + 1)] s (s.enter vec) := by
  have ack : MakesCycles [] s (s.mask.acknowledge vec) := by
    unfold State.acknowledge
    split <;> exact ⟨rfl, fun q => ⟨q, (List.append_nil _).symm⟩⟩
  exact (ack.trans (makes_read16 _ vec)).of_board rfl

/-! ## The machine cycles of the operand forms (R63, R65, R95, R96, R98) -/

/-- "Index Register Plus Offset (w/o Carry)" in numbers (R65). -/
theorem offsetWithoutCarry_eq (x : Word) (o : Byte) :
    offsetWithoutCarry x o =
      BitVec.ofNat 16 (x.toNat / 256 * 256 + (x.toNat % 256 + o.toNat) % 256) := by
  apply BitVec.eq_of_toNat_eq
  have low : (x.toNat % 256 + o.toNat) % 256 < 2 ^ 8 := Nat.mod_lt _ (by decide)
  have := x.isLt
  simp only [offsetWithoutCarry, join, hi, lo, BitVec.toNat_append, BitVec.extractLsb'_toNat, BitVec.toNat_add,
    BitVec.toNat_ofNat, Nat.shiftRight_eq_div_pow]
  rw [← Nat.shiftLeft_add_eq_or_of_lt (by omega), Nat.shiftLeft_eq]
  omega

theorem indexCycles_use (o : Byte) : (indexCycles s.x o).map BusCycle.use = s.indexing o := by
  simp only [indexCycles, offsetWithoutCarry_eq]
  rfl

end

/-- What the VMA = 0 cycles before an operand is reached show (R65). -/
def MemOperand.approachUses (e : MemOperand) (s : State) : List BusUse :=
  match e with
  | .dir _ => []
  | .idx o => s.indexing o
  | .ext _ => []

section
variable (e : MemOperand) (s : State)

theorem MemOperand.approach_use : (e.approach s).map BusCycle.use = e.approachUses s := by
  cases e with
  | dir d => rfl
  | idx o => exact indexCycles_use s o
  | ext w => rfl

theorem makes_approach : MakesCycles (e.approachUses s) s (s.idles (e.approach s)) :=
  e.approach_use s ▸ makes_idles s (e.approach s)

theorem makes_load8 : MakesCycles (e.approachUses s ++ [.read (e.ea s)]) s ((Operand8.mem e).read s).2 :=
  (makes_approach e s).trans (makes_read8 _ (e.ea s))

theorem makes_load16 :
    MakesCycles (e.approachUses s ++ [.read (e.ea s), .read (e.ea s + 1)]) s ((Operand16.mem e).read s).2 :=
  (makes_approach e s).trans (makes_read16 _ (e.ea s))

/-- The destination of a store stands on the address bus before the write, with VMA = 0, and is not read (R65). -/
theorem makes_storing :
    MakesCycles (e.approachUses s ++ [.shows (e.ea s)]) s (s.idles (e.approach s ++ [vmaLow (e.ea s)])) := by
  have h := makes_idles s (e.approach s ++ [vmaLow (e.ea s)])
  rwa [List.map_append, e.approach_use] at h

theorem makes_store8 (v : Byte) :
    MakesCycles (e.approachUses s ++ [.shows (e.ea s), .write (e.ea s)]) s (e.store8 v s) := by
  have h := (makes_storing e s).trans (makes_write8 _ (e.ea s) v)
  rwa [List.append_assoc] at h

theorem makes_store16 (v : Word) :
    MakesCycles (e.approachUses s ++ [.shows (e.ea s), .write (e.ea s), .write (e.ea s + 1)]) s (e.store16 v s) := by
  have h := (makes_storing e s).trans (makes_write16 _ (e.ea s) v)
  rwa [List.append_assoc] at h

/-- The read-modify-write pattern: one read, one VMA = 0 cycle, one write (R63). -/
theorem makes_unaryMem (f : Byte → Flags → Byte × Flags) :
    MakesCycles (e.approachUses s ++ [.read (e.ea s), .blank, .write (e.ea s)]) s (unaryMem f e s) := by
  have h := ((makes_load8 e s).trans (makes_idle _ vmaLowUnstated)).trans
    (makes_write8 _ (e.ea s) (f (e.rmwRead s).1 s.cc).1)
  have h' : MakesCycles _ s (unaryMem f e s) := h.of_board rfl
  rwa [List.append_assoc, List.append_assoc] at h'

/-- TST has the cycles of that pattern but writes nothing: its last cycle has VMA = 0 (R63). -/
theorem makes_tstMem :
    MakesCycles (e.approachUses s ++ [.read (e.ea s), .blank, .shows (e.ea s)]) s (tstMem e s) := by
  have h := (makes_load8 e s).trans (makes_idles _ [vmaLowUnstated, vmaLow (e.ea s)])
  have h' : MakesCycles _ s (tstMem e s) := h.of_board rfl
  rwa [List.append_assoc] at h'

end

/-! ## The machine cycles of the instructions that have a pattern of their own -/

section
variable (r : Acc) (d : Byte) (s : State)

theorem makes_inherent4 (c : BusCycle) : MakesCycles [.read s.pc, c.use, .blank] s (s.inherent4 c) :=
  (makes_inherent s).trans (makes_idles _ [c, vmaLowUnstated])

/-- A free bit costs no machine cycle. -/
theorem makes_daaOp : MakesCycles [.read s.pc] s (daaOp s) := by
  have drawn : MakesCycles [] s.inherent s.inherent.drawBit.2 := ⟨rfl, fun q => ⟨q, (List.append_nil _).symm⟩⟩
  exact ((makes_inherent s).trans drawn).of_board rfl

theorem makes_pshOp : MakesCycles [.read s.pc, .write s.sp, .shows (s.sp - 1)] s (pshOp r s) :=
  ((makes_inherent s).trans (makes_push8 _ (s.acc r))).trans (makes_idle _ (vmaLow (s.sp - 1)))

theorem makes_pulOp : MakesCycles [.read s.pc, .shows s.sp, .read (s.sp + 1)] s (pulOp r s) :=
  (((makes_inherent s).trans (makes_idle _ (vmaLow s.sp))).trans (makes_pull8 _)).of_board (by simp [pulOp])

theorem makes_branchOp (taken : Bool) : MakesCycles [.blank, .blank] s (branchOp taken d s) :=
  (makes_idles s [vmaLowUnstated, vmaLowUnstated]).of_board rfl

theorem makes_jmpIndexedOp : MakesCycles (s.indexing d) s (jmpIndexedOp d s) :=
  (makes_approach (.idx d) s).of_board rfl

/-- The cycles of a call up to the stacked return address. -/
theorem makes_call (a : Addr) :
    MakesCycles [.shows a, .write s.sp, .write (s.sp - 1)] s ((s.idle (vmaLow a)).push16 s.pc) :=
  (makes_idle s (vmaLow a)).trans (makes_push16 (s.idle (vmaLow a)) s.pc)

theorem makes_bsrOp :
    MakesCycles [.shows s.pc, .write s.sp, .write (s.sp - 1), .shows (s.sp - 2), .shows (branchTarget d s),
      .shows (branchTarget d s)] s (bsrOp d s) :=
  ((makes_call s s.pc).trans
    (makes_idles _ [vmaLow (s.sp - 2), vmaLow (branchTarget d s), vmaLow (branchTarget d s)])).of_board rfl

theorem makes_jsrIndexedOp :
    MakesCycles ([.shows s.x, .write s.sp, .write (s.sp - 1), .shows (s.sp - 2)] ++ s.indexing d) s
      (jsrIndexedOp d s) := by
  have h := (makes_call s s.x).trans (makes_idles _ (vmaLow (s.sp - 2) :: indexCycles s.x d))
  rw [List.map_cons, indexCycles_use] at h
  exact h.of_board rfl

theorem makes_jsrExtendedOp (w : Word) :
    MakesCycles [.read w, .write s.sp, .write (s.sp - 1), .shows (s.sp - 2), .shows (s.pc - 1), .read (s.pc - 1)] s
      (jsrExtendedOp w s) :=
  ((((makes_read8 s w).trans (makes_push16 _ s.pc)).trans
    (makes_idles _ [vmaLow (s.sp - 2), vmaLow (s.pc - 1)])).trans (makes_read8 _ (s.pc - 1))).of_board rfl

theorem makes_rtsOp : MakesCycles [.read s.pc, .shows s.sp, .read (s.sp + 1), .read (s.sp + 2)] s (rtsOp s) :=
  (((makes_inherent s).trans (makes_idle _ (vmaLow s.sp))).trans (makes_pull16 _)).of_board rfl

theorem makes_rtiOp : MakesCycles (busPattern .rti s) s (rtiOp s) :=
  ((makes_inherent s).trans (makes_idle _ (vmaLow s.sp))).trans
    (makes_pullFrame (s.inherent.idle (vmaLow s.sp)))

theorem makes_swiOp : MakesCycles (busPattern .swi s) s (swiOp s) :=
  (((makes_inherent s).trans (makes_pushFrame _)).trans (makes_idle _ (vmaLow (s.sp - 7)))).trans
    (makes_enter _ vectorSwi)

theorem makes_waiOp : MakesCycles (busPattern .wai s) s (waiOp s) :=
  ((makes_inherent s).trans (makes_pushFrame _)).of_board rfl

end

/-! ## Table 8, instruction by instruction -/

/-- Every meaning completes and makes the machine cycles of Table 8 after the fetch. -/
theorem exec_makes (i : Instr) (s : State) : ∃ t, exec i s = .next t ∧ MakesCycles (busPattern i s) s t := by
  cases i with
  | nop | tap | tpa | clv | sev | clc | sec | cli | sei | sba | cba | tab | tba | aba | nega | coma | lsra | rora
  | asra | asla | rola | deca | inca | tsta | clra | negb | comb | lsrb | rorb | asrb | aslb | rolb | decb | incb
  | tstb | clrb =>
    exact ⟨_, rfl, (makes_inherent s).of_board rfl⟩
  | daa => exact ⟨_, rfl, makes_daaOp s⟩
  | subaImm | cmpaImm | sbcaImm | andaImm | bitaImm | ldaaImm | eoraImm | adcaImm | oraaImm | addaImm | subbImm
  | cmpbImm | sbcbImm | andbImm | bitbImm | ldabImm | eorbImm | adcbImm | orabImm | addbImm | cpxImm | ldsImm
  | ldxImm | jmpExt =>
    exact ⟨_, rfl, (MakesCycles.refl s).of_board rfl⟩
  | subaDir d | cmpaDir d | sbcaDir d | andaDir d | bitaDir d | ldaaDir d | eoraDir d | adcaDir d | oraaDir d
  | addaDir d | subbDir d | cmpbDir d | sbcbDir d | andbDir d | bitbDir d | ldabDir d | eorbDir d | adcbDir d
  | orabDir d | addbDir d =>
    exact ⟨_, rfl, (makes_load8 (.dir d) s).of_board rfl⟩
  | subaIdx o | cmpaIdx o | sbcaIdx o | andaIdx o | bitaIdx o | ldaaIdx o | eoraIdx o | adcaIdx o | oraaIdx o
  | addaIdx o | subbIdx o | cmpbIdx o | sbcbIdx o | andbIdx o | bitbIdx o | ldabIdx o | eorbIdx o | adcbIdx o
  | orabIdx o | addbIdx o =>
    exact ⟨_, rfl, (makes_load8 (.idx o) s).of_board rfl⟩
  | subaExt w | cmpaExt w | sbcaExt w | andaExt w | bitaExt w | ldaaExt w | eoraExt w | adcaExt w | oraaExt w
  | addaExt w | subbExt w | cmpbExt w | sbcbExt w | andbExt w | bitbExt w | ldabExt w | eorbExt w | adcbExt w
  | orabExt w | addbExt w =>
    exact ⟨_, rfl, (makes_load8 (.ext w) s).of_board rfl⟩
  | cpxDir d | ldsDir d | ldxDir d => exact ⟨_, rfl, (makes_load16 (.dir d) s).of_board rfl⟩
  | cpxIdx o | ldsIdx o | ldxIdx o => exact ⟨_, rfl, (makes_load16 (.idx o) s).of_board rfl⟩
  | cpxExt w | ldsExt w | ldxExt w => exact ⟨_, rfl, (makes_load16 (.ext w) s).of_board rfl⟩
  | staaDir d | stabDir d => exact ⟨_, rfl, (makes_store8 (.dir d) s _).of_board rfl⟩
  | staaIdx o | stabIdx o => exact ⟨_, rfl, (makes_store8 (.idx o) s _).of_board rfl⟩
  | staaExt w | stabExt w => exact ⟨_, rfl, (makes_store8 (.ext w) s _).of_board rfl⟩
  | stxDir d | stsDir d => exact ⟨_, rfl, (makes_store16 (.dir d) s _).of_board rfl⟩
  | stxIdx o | stsIdx o => exact ⟨_, rfl, (makes_store16 (.idx o) s _).of_board rfl⟩
  | stxExt w | stsExt w => exact ⟨_, rfl, (makes_store16 (.ext w) s _).of_board rfl⟩
  | negIdx o | comIdx o | lsrIdx o | rorIdx o | asrIdx o | aslIdx o | rolIdx o | decIdx o | incIdx o | clrIdx o =>
    exact ⟨_, rfl, makes_unaryMem (.idx o) s _⟩
  | negExt w | comExt w | lsrExt w | rorExt w | asrExt w | aslExt w | rolExt w | decExt w | incExt w | clrExt w =>
    exact ⟨_, rfl, makes_unaryMem (.ext w) s _⟩
  | tstIdx o => exact ⟨_, rfl, makes_tstMem (.idx o) s⟩
  | tstExt w => exact ⟨_, rfl, makes_tstMem (.ext w) s⟩
  | inx | dex => exact ⟨_, rfl, (makes_inherent4 s (vmaLow s.x)).of_board rfl⟩
  | ins | des => exact ⟨_, rfl, (makes_inherent4 s (vmaLow s.sp)).of_board rfl⟩
  | tsx | txs => exact ⟨_, rfl, (makes_inherent4 s vmaLowUnstated).of_board rfl⟩
  | psha | pshb => exact ⟨_, rfl, makes_pshOp _ s⟩
  | pula | pulb => exact ⟨_, rfl, makes_pulOp _ s⟩
  | bra | bcc | bcs | beq | bge | bgt | bhi | ble | bls | blt | bmi | bne | bvc | bvs | bpl =>
    exact ⟨_, rfl, makes_branchOp _ s _⟩
  | jmpIdx o => exact ⟨_, rfl, makes_jmpIndexedOp o s⟩
  | bsr d => exact ⟨_, rfl, makes_bsrOp d s⟩
  | jsrIdx o => exact ⟨_, rfl, makes_jsrIndexedOp o s⟩
  | jsrExt w => exact ⟨_, rfl, makes_jsrExtendedOp s w⟩
  | rts => exact ⟨_, rfl, makes_rtsOp s⟩
  | rti => exact ⟨_, rfl, makes_rtiOp s⟩
  | swi => exact ⟨_, rfl, makes_swiOp s⟩
  | wai => exact ⟨_, rfl, makes_waiOp s⟩

/-- The two tables of R106 agree, row by row: a fetch of every byte and the cycles of the pattern make the count. -/
theorem busPattern_length (i : Instr) (s : State) : (busPattern i s).length + i.length = i.cycles := by
  cases i <;> rfl

/-- Settles O8, from the machine cycles that every meaning makes. -/
theorem busCyclesOfEveryInstruction : Obligations.BusCyclesOfEveryInstruction := by
  intro i s t h
  obtain ⟨u, hu, makes⟩ := exec_makes i s
  rw [hu] at h
  cases h
  refine ⟨?_, fun q => (makes.quiet q).2⟩
  calc t.ticks + i.length
      = s.ticks + ((busPattern i s).length + i.length) := by rw [makes.count, Nat.add_assoc]
    _ = s.ticks + i.cycles := by rw [busPattern_length]

end Sys2Proof.Machine

namespace Sys2Proof

/-! ## The operation-code map: what a first byte selects (R90, R101) -/

/-- The instruction that a shape gives once its operand bytes are there, with those bytes (R90). -/
inductive Shape.Fills : Shape → Instr → List Byte → Prop where
  | f1 (i : Instr) : Fills (.f1 i) i []
  | f2 (build : Byte → Instr) (b : Byte) : Fills (.f2 build) (build b) [b]
  | f3 (build : Word → Instr) (w : Word) : Fills (.f3 build) (build w) (operandBytes w)

/-- The two operand bytes of format F3 hold every bit of the word (R58). -/
theorem highByte_append_lowByte (w : Word) : w.extractLsb' 8 8 ++ w.extractLsb' 0 8 = w :=
  (BitVec.extractLsb'_append_extractLsb'_eq_extractLsb' (start₁ := 0) (len₁ := 8) (len₂ := 8) rfl).trans
    BitVec.extractLsb'_eq_self

theorem operandBytes_of_append (h l : Byte) : operandBytes (h ++ l) = [h, l] := by
  rw [operandBytes, BitVec.extractLsb'_append_eq_left, BitVec.extractLsb'_append_eq_right]

theorem decode_of_fills {op : Byte} {shape : Shape} {i : Instr} {operand : List Byte}
    (row : decodeOp op = .ok shape) (fills : shape.Fills i operand) (rest : List Byte) :
    decode (op :: operand ++ rest) = .ok (i, rest) := by
  cases fills with
  | f1 => simp [decode, row]
  | f2 build b => simp [decode, row]
  | f3 build w => simp [decode, row, operandBytes, highByte_append_lowByte]

/-- Whatever decodes is a first byte of the map, the operand bytes of its shape, and the rest. -/
theorem fills_of_decode {bs rest : List Byte} {i : Instr} (h : decode bs = .ok (i, rest)) :
    ∃ op shape operand, decodeOp op = .ok shape ∧ shape.Fills i operand ∧ bs = op :: operand ++ rest := by
  cases bs with
  | nil => cases h
  | cons op bytes =>
    simp only [decode] at h
    split at h
    case h_1 => cases h
    case h_2 row =>
      cases h
      exact ⟨op, _, _, row, .f1 i, rfl⟩
    case h_3 build row =>
      split at h <;> cases h
      exact ⟨op, _, _, row, .f2 build _, rfl⟩
    case h_4 build row =>
      split at h <;> cases h
      exact ⟨op, _, _, row, .f3 build _, by rw [operandBytes_of_append]; rfl⟩

/-! ## Each instruction has a row, and each row the bytes of its instruction -/

/-- The map has a row for the first byte of the instruction, and its shape, filled with the other bytes, is the
instruction. -/
def HasRow (i : Instr) : Prop :=
  ∃ op shape operand, encode i = op :: operand ∧ decodeOp op = .ok shape ∧ shape.Fills i operand

theorem HasRow.f1 {op : Byte} {i : Instr} (h : encode i = [op]) (row : decodeOp op = .ok (.f1 i)) : HasRow i :=
  ⟨op, _, [], h, row, .f1 i⟩

theorem HasRow.f2 {op b : Byte} {build : Byte → Instr} {i : Instr} (h : encode i = [op, b])
    (row : decodeOp op = .ok (.f2 build)) (made : build b = i) : HasRow i :=
  ⟨op, _, [b], h, row, made ▸ .f2 build b⟩

theorem HasRow.f3 {op : Byte} {w : Word} {build : Word → Instr} {i : Instr} (h : encode i = op :: operandBytes w)
    (row : decodeOp op = .ok (.f3 build)) (made : build w = i) : HasRow i :=
  ⟨op, _, operandBytes w, h, row, made ▸ .f3 build w⟩

/-- The 197 instructions have the rows of R101, by the layout of each. -/
theorem hasRow (i : Instr) : HasRow i := by
  cases i with
  | nop | tap | tpa | inx | dex | clv | sev | clc | sec | cli | sei | sba | cba | tab | tba | daa | aba | tsx
  | ins | pula | pulb | des | txs | psha | pshb | rts | rti | wai | swi | nega | coma | lsra | rora | asra | asla
  | rola | deca | inca | tsta | clra | negb | comb | lsrb | rorb | asrb | aslb | rolb | decb | incb | tstb | clrb =>
    exact .f1 rfl rfl
  | bra | bhi | bls | bcc | bcs | bne | beq | bvc | bvs | bpl | bmi | bge | blt | bgt | ble | negIdx | comIdx
  | lsrIdx | rorIdx | asrIdx | aslIdx | rolIdx | decIdx | incIdx | tstIdx | jmpIdx | clrIdx | subaImm | cmpaImm
  | sbcaImm | andaImm | bitaImm | ldaaImm | eoraImm | adcaImm | oraaImm | addaImm | bsr | subaDir | cmpaDir
  | sbcaDir | andaDir | bitaDir | ldaaDir | staaDir | eoraDir | adcaDir | oraaDir | addaDir | cpxDir | ldsDir
  | stsDir | subaIdx | cmpaIdx | sbcaIdx | andaIdx | bitaIdx | ldaaIdx | staaIdx | eoraIdx | adcaIdx | oraaIdx
  | addaIdx | cpxIdx | jsrIdx | ldsIdx | stsIdx | subbImm | cmpbImm | sbcbImm | andbImm | bitbImm | ldabImm
  | eorbImm | adcbImm | orabImm | addbImm | subbDir | cmpbDir | sbcbDir | andbDir | bitbDir | ldabDir | stabDir
  | eorbDir | adcbDir | orabDir | addbDir | ldxDir | stxDir | subbIdx | cmpbIdx | sbcbIdx | andbIdx | bitbIdx
  | ldabIdx | stabIdx | eorbIdx | adcbIdx | orabIdx | addbIdx | ldxIdx | stxIdx =>
    exact .f2 rfl rfl rfl
  | negExt | comExt | lsrExt | rorExt | asrExt | aslExt | rolExt | decExt | incExt | tstExt | jmpExt | clrExt
  | cpxImm | ldsImm | subaExt | cmpaExt | sbcaExt | andaExt | bitaExt | ldaaExt | staaExt | eoraExt | adcaExt
  | oraaExt | addaExt | cpxExt | jsrExt | ldsExt | stsExt | ldxImm | subbExt | cmpbExt | sbcbExt | andbExt | bitbExt
  | ldabExt | stabExt | eorbExt | adcbExt | orabExt | addbExt | ldxExt | stxExt =>
    exact .f3 rfl rfl rfl

theorem decode_encode (i : Instr) (rest : List Byte) : decode (encode i ++ rest) = .ok (i, rest) := by
  obtain ⟨op, shape, operand, bytes, row, fills⟩ := hasRow i
  rw [bytes]
  exact decode_of_fills row fills rest

/-- Settles O1: the map has a row for every instruction, and decoding fills its shape again. -/
theorem decodeOfEncode : Obligations.DecodeOfEncode := fun i rest _ => decode_encode i rest

/-- A row of the map stands for the instructions whose bytes start with its operation code. -/
def OpRow.Sound (row : OpRow) : Prop :=
  match row.shape with
  | .f1 i => encode i = [BitVec.ofNat 8 row.op]
  | .f2 build => ∀ b, encode (build b) = [BitVec.ofNat 8 row.op, b]
  | .f3 build => ∀ w, encode (build w) = BitVec.ofNat 8 row.op :: operandBytes w

/-- A sound row, filled, is an instruction with the bytes that `encode` gives. -/
theorem OpRow.Sound.bytes {n : Nat} {shape : Shape} {i : Instr} {operand : List Byte}
    (sound : OpRow.Sound ⟨n, shape⟩) (fills : shape.Fills i operand) : encode i = BitVec.ofNat 8 n :: operand := by
  cases fills with
  | f1 => exact sound
  | f2 build b => exact sound b
  | f3 build w => exact sound w

theorem lookupOp_eq_some {rows : List OpRow} {n : Nat} {shape : Shape} (h : lookupOp rows n = some shape) :
    ⟨n, shape⟩ ∈ rows := by
  induction rows with
  | nil => cases h
  | cons row rest ih =>
    unfold lookupOp at h
    split at h
    case isTrue code =>
      cases h
      exact code ▸ List.mem_cons_self
    case isFalse => exact List.mem_cons_of_mem _ (ih h)

/-- The 197 rows of the map, each by evaluating `encode` on what it makes. -/
theorem opTable_sound : ∀ row ∈ opTable, row.Sound := by
  simp only [opTable, opRows0, opRows1, opRows2, opRows3, opRows4, opRows5, opRows6, opRows7, opRows8, opRows9, opRowsA,
    opRowsB, opRowsC, opRowsD, opRowsE, opRowsF, List.forall_mem_append, List.forall_mem_cons, List.not_mem_nil,
    false_implies, implies_true, and_true, OpRow.Sound]
  repeat' apply And.intro
  all_goals intros; rfl

/-- What the first byte selects is the shape of a row with that operation code. -/
theorem decodeOp_eq_ok {op : Byte} {shape : Shape} (h : decodeOp op = .ok shape) : ⟨op.toNat, shape⟩ ∈ opTable := by
  unfold decodeOp at h
  split at h <;> cases h
  case h_1 found => exact lookupOp_eq_some found

/-- Settles O2: whatever decodes has filled the shape of a row, and the rows are sound. -/
theorem encodeOfDecode : Obligations.EncodeOfDecode := by
  intro bs rest i h
  obtain ⟨op, shape, operand, found, fills, rfl⟩ := fills_of_decode h
  have bytes := (opTable_sound _ (decodeOp_eq_ok found)).bytes fills
  rw [BitVec.ofNat_toNat, BitVec.setWidth_eq] at bytes
  rw [bytes]

/-! ## The codes without a row (R103) -/

theorem lookupOp_eq_none_iff_notMem {rows : List OpRow} {n : Nat} :
    lookupOp rows n = none ↔ n ∉ rows.map OpRow.op := by
  induction rows with
  | nil => simp [lookupOp]
  | cons row rest ih =>
    unfold lookupOp
    split
    case isTrue code => simp [code]
    case isFalse code => simp only [ih, List.map_cons, List.mem_cons, Ne.symm code, false_or]

/-- The codes that no row has, in ascending order, are those that R103 lists. -/
theorem codes_without_row :
    (List.range 256).filter (fun n => n ∉ opTable.map OpRow.op) = Machine.unassignedCodes.map BitVec.toNat := by
  decide

theorem lookupOp_eq_none_iff (op : Byte) : lookupOp opTable op.toNat = none ↔ op ∈ Machine.unassignedCodes := by
  have injective : Function.Injective (BitVec.toNat (w := 8)) := fun _ _ => BitVec.eq_of_toNat_eq
  rw [lookupOp_eq_none_iff_notMem, ← List.mem_map_of_injective injective, ← codes_without_row]
  simp [op.isLt]

theorem unassignedCodes_nodup : Machine.unassignedCodes.Nodup :=
  List.Nodup.of_map BitVec.toNat (codes_without_row ▸ List.nodup_range.filter _)

/-- A code without a row is an error by its name. -/
theorem decodeOp_of_none {op : Byte} (h : lookupOp opTable op.toNat = none) : decodeOp op = .error (.unassigned op) := by
  rw [decodeOp, h]

theorem decodeOp_ne_ok_iff (op : Byte) : (∀ shape, decodeOp op ≠ .ok shape) ↔ lookupOp opTable op.toNat = none := by
  cases found : lookupOp opTable op.toNat with
  | none => simp [decodeOp_of_none found]
  | some shape => simp [decodeOp, found]

/-- Settles O3: a code has no shape exactly if it has no row, and the codes without a row are those of R103. -/
theorem unassignedCodesAreRefused : Obligations.UnassignedCodesAreRefused :=
  ⟨fun op => (decodeOp_ne_ok_iff op).trans (lookupOp_eq_none_iff op), rfl, unassignedCodes_nodup⟩

/-- Settles O4: each sequence is written as the bytes of its instruction. -/
theorem writtenWordsDecode : Obligations.WrittenWordsDecode :=
  ⟨decode_encode (.addaImm 0x34) [], decode_encode (.negExt 0x1234) [], decode_encode (.rorIdx 0x05) [],
    decode_encode (.stabDir 0x80) [], decode_encode (.cpxImm 0x1234) [], decode_encode (.ldsExt 0xFF01) [],
    decode_encode (.bne 0xF2) [], decode_encode (.jsrExt 0xC000) [], decode_encode .tap []⟩

end Sys2Proof

namespace Sys2Proof.Machine

/-! ## Operands: effective addresses, and what is read there (R95, R96, R98, R107) -/

theorem zext16_toNat (v : Byte) : (zext16 v).toNat = v.toNat := by
  have := v.isLt
  simp only [zext16, BitVec.toNat_setWidth]
  omega

/-- A read of RAM or ROM, after nothing but reads, gives the byte that stood there before them. -/
theorem Stores.read8_byteAt {s t : State} (h : Stores [] s t) (q : s.Quiet) {a : Addr} (m : s.isMemory a = true) :
    (t.read8 a).1 = s.byteAt a := by
  obtain ⟨bytes, -⟩ := h.kept q
  rw [h.read8_value q m, bytes]

/-- The same for a read of two bytes, the high-order byte first (R54). -/
theorem Stores.read16_wordAt {s t : State} (h : Stores [] s t) (q : s.Quiet) {a : Addr} (m : s.isMemory a = true)
    (m' : s.isMemory (a + 1) = true) : (t.read16 a).1 = s.wordAt a := by
  rw [h.read16_value q m m', h.wordAt_eq q]

/-- Settles O9: the VMA = 0 cycles that lead to an operand are followed by one or two reads. -/
theorem operandsAreAddressedAndRead : Obligations.OperandsAreAddressedAndRead := by
  intro s m d o w
  refine ⟨zext16_toNat d, ?indexed, rfl, rfl, rfl, fun e q m => ?loaded⟩
  case indexed => exact (BitVec.toNat_add _ _).trans (by rw [zext16_toNat])
  case loaded =>
    have approach := stores_idles (e.approach s) s
    exact ⟨approach.read8_byteAt q m, fun m' => approach.read16_wordAt q m m'⟩

/-! ## Branches (R99, R240) -/

/-- The branch target in numbers: a signed offset, modulo 65536. -/
theorem branchTarget_toNat (r : Byte) (s : State) :
    ((branchTarget r s).toNat : Int) = ((s.pc.toNat : Int) + r.toInt) % 65536 := by
  have extended : (sext16 r).toInt = r.toInt := BitVec.toInt_signExtend_of_le (by decide)
  have sum : (branchTarget r s).toNat = (s.pc.toNat + (sext16 r).toNat) % 65536 := BitVec.toNat_add s.pc (sext16 r)
  have signed := BitVec.toInt_eq_toNat_cond (sext16 r)
  omega

/-- The shared operation of the branches, for a test that reads as the one it is given. -/
theorem branches_branchOp {test taken : Bool} (same : taken = test) (r : Byte) (s : State) :
    Branches test r s (.next (branchOp taken r s)) := by
  subst same
  refine ⟨_, rfl, ?_, rfl, (stores_branchOp taken r s).kept⟩
  cases taken with
  | true => exact branchTarget_toNat r s
  | false => rfl

/-- Settles O31: the tests of Table 5 are those of the model, written with exclusive or. -/
theorem branchForms : Obligations.BranchForms := by
  intro s r
  have equal : (s.cc.n == s.cc.v) = !(s.cc.n ^^ s.cc.v) := by cases s.cc.n <;> cases s.cc.v <;> rfl
  have differ : (s.cc.n != s.cc.v) = (s.cc.n ^^ s.cc.v) := congrFun₂ Bool.bne_eq_xor _ _
  refine ⟨branches_branchOp rfl r s, branches_branchOp rfl r s, branches_branchOp rfl r s, branches_branchOp rfl r s,
    branches_branchOp equal r s, branches_branchOp ?bgt r s, branches_branchOp ?bhi r s, branches_branchOp ?ble r s,
    branches_branchOp rfl r s, branches_branchOp differ r s, branches_branchOp rfl r s, branches_branchOp rfl r s,
    branches_branchOp rfl r s, branches_branchOp rfl r s, branches_branchOp rfl r s⟩
  case bgt => rw [equal, Bool.not_or]
  case bhi => rw [Bool.not_or]
  case ble => rw [differ]

/-! ## Subroutine calls (R57, R256, R258) -/

/-- Settles O32: each call pushes the return address between reads and VMA = 0 cycles. -/
theorem subroutineCalls : Obligations.SubroutineCalls := by
  intro s r o w
  refine ⟨⟨_, rfl, ?bsr, (stores_bsrOp r s).pushed⟩, ⟨_, rfl, ?jsrIdx, (stores_jsrIndexedOp o s).pushed⟩,
    ⟨_, rfl, ?jsrExt, (stores_jsrExtendedOp w s).pushed⟩⟩
  case bsr => apply State.ext <;> simp [bsrOp, branchTarget, sext16]
  case jsrIdx => apply State.ext <;> simp [jsrIndexedOp, zext16]
  case jsrExt => apply State.ext <;> simp [jsrExtendedOp]

/-! ## The fetch of an instruction (R92, R333) -/

/-- On a quiet board nothing is cut short, and it stays quiet. -/
theorem Stores.quiet {l : List (Addr × Byte)} {s t : State} (h : Stores l s t) (q : s.Quiet) :
    t.Quiet ∧ t.board.cut = false := by
  obtain ⟨-, -, -, env, reset, uncut⟩ := h q
  exact ⟨⟨env, reset, uncut⟩, uncut⟩

theorem runInstr_f1 {s : State} {i : Instr} (uncut : s.fetch8.2.board.cut = false)
    (row : decodeOp s.fetch8.1 = .ok (.f1 i)) : s.runInstr = exec i s.fetch8.2 := by
  simp only [State.runInstr, uncut, row, Bool.false_eq_true, if_false]

theorem runInstr_f2 {s : State} {build : Byte → Instr} (uncut : s.fetch8.2.board.cut = false)
    (row : decodeOp s.fetch8.1 = .ok (.f2 build)) :
    s.runInstr = exec (build s.fetch8.2.fetch8.1) s.fetch8.2.fetch8.2 := by
  simp only [State.runInstr, uncut, row, Bool.false_eq_true, if_false]

theorem runInstr_f3 {s : State} {build : Word → Instr} (uncut : s.fetch8.2.board.cut = false)
    (row : decodeOp s.fetch8.1 = .ok (.f3 build)) :
    s.runInstr = exec (build s.fetch8.2.fetch16.1) s.fetch8.2.fetch16.2 := by
  simp only [State.runInstr, uncut, row, Bool.false_eq_true, if_false]

theorem runInstr_unassigned {s : State} {op : Byte} (uncut : s.fetch8.2.board.cut = false) (fetched : s.fetch8.1 = op)
    (code : op ∈ unassignedCodes) : s.runInstr = .refused (.undefinedOpcode op s.pc) := by
  have row := decodeOp_of_none ((lookupOp_eq_none_iff op).2 code)
  simp only [State.runInstr, uncut, fetched, row, Bool.false_eq_true, if_false]

/-- The read cycles that fetch the `n` bytes from pc on. -/
def State.fetchCycles (s : State) (n : Nat) : List BusCycle :=
  (List.range n).map fun k => .read (s.pc + BitVec.ofNat 16 k) (s.byteAt (s.pc + BitVec.ofNat 16 k))

/-- `t` is `s` after the fetch of `n` bytes: pc past them, and on the board one read cycle for each. -/
structure Fetched (n : Nat) (s t : State) : Prop where
  regs : t = { s with pc := s.pc + BitVec.ofNat 16 n, board := t.board }
  stores : Stores [] s t
  trace : t.board.trace = s.board.trace ++ s.fetchCycles n

theorem Fetched.refl (s : State) : Fetched 0 s s :=
  ⟨State.ext rfl rfl rfl rfl (BitVec.add_zero s.pc).symm rfl rfl rfl rfl, Stores.refl s, (List.append_nil _).symm⟩

/-- One more byte from RAM or ROM. -/
theorem Fetched.fetch8 {n : Nat} {s t : State} (h : Fetched n s t) (q : s.Quiet)
    (m : s.isMemory (s.pc + BitVec.ofNat 16 n) = true) :
    t.fetch8.1 = s.byteAt (s.pc + BitVec.ofNat 16 n) ∧ Fetched (n + 1) s t.fetch8.2 := by
  obtain ⟨regs, stores, trace⟩ := h
  have pc : t.pc = s.pc + BitVec.ofNat 16 n := by rw [regs]
  have byte : t.fetch8.1 = s.byteAt (s.pc + BitVec.ofNat 16 n) := by
    rw [← pc] at m ⊢
    exact stores.read8_byteAt q m
  refine ⟨byte, ?regs, stores.trans (stores_fetch8 t), ?trace⟩
  case regs =>
    have next : t.pc + 1 = s.pc + BitVec.ofNat 16 (n + 1) := by rw [pc, BitVec.add_assoc, BitVec.ofNat_add]; rfl
    rw [regs] at next ⊢
    exact State.ext rfl rfl rfl rfl next rfl rfl rfl rfl
  case trace =>
    obtain ⟨quiet, -⟩ := stores.quiet q
    obtain ⟨-, -, -, -, recorded⟩ := quiet.busRead_same t.pc
    have last : t.fetch8.2.board.trace = t.board.trace ++ [.read t.pc t.fetch8.1] := recorded
    rw [last, trace, pc, byte, State.fetchCycles, State.fetchCycles, List.range_succ, List.map_append,
      List.append_assoc]
    rfl

/-- One more byte of an instruction that stands at pc. -/
theorem Fetched.next {n : Nat} {s t : State} {i : Instr} {bytes : List Byte} {v : Byte} (h : Fetched n s t)
    (q : s.Quiet) (held : s.Holds i) (e : encode i = bytes) (hn : bytes[n]? = some v) :
    t.fetch8.1 = v ∧ Fetched (n + 1) s t.fetch8.2 := by
  subst e
  obtain ⟨inside, rfl⟩ := List.getElem?_eq_some_iff.1 hn
  obtain ⟨m, byte⟩ := held n inside
  obtain ⟨value, fetched⟩ := h.fetch8 q m
  exact ⟨value.trans byte, fetched⟩

/-- On a quiet board the instruction whose bytes stand at pc is fetched and executed. -/
theorem runInstr_of_holds {s : State} {i : Instr} (q : s.Quiet) (held : s.Holds i) :
    ∃ f, s.runInstr = exec i f ∧ Fetched i.length s f := by
  obtain ⟨op, shape, operand, bytes, row, fills⟩ := hasRow i
  obtain ⟨first, fetched⟩ := (Fetched.refl s).next q held bytes rfl
  obtain ⟨-, uncut⟩ := fetched.stores.quiet q
  rw [← first] at row
  unfold Instr.length
  cases fills with
  | f1 i =>
    rw [bytes]
    exact ⟨_, runInstr_f1 uncut row, fetched⟩
  | f2 build b =>
    obtain ⟨second, fetched⟩ := fetched.next q held bytes rfl
    rw [bytes, ← second]
    exact ⟨_, runInstr_f2 uncut row, fetched⟩
  | f3 build w =>
    obtain ⟨second, fetched⟩ := fetched.next q held bytes rfl
    obtain ⟨third, fetched⟩ := fetched.next q held bytes rfl
    have word : s.fetch8.2.fetch16.1 = w := by
      rw [← highByte_append_lowByte w, ← second, ← third]
      rfl
    rw [bytes, ← word]
    exact ⟨_, runInstr_f3 uncut row, fetched⟩

/-- At a boundary with nothing to serve a step runs an instruction, on a quiet board. -/
theorem step_ready {s : State} (ready : s.Ready) : step s = s.begin.runInstr ∧ s.begin.Quiet := by
  obtain ⟨⟨run, asked, kept, env⟩, halt, nmi, irq, nothing⟩ := ready
  refine ⟨?_, begin_quiet asked env⟩
  rw [step_running asked kept run]
  simp [State.runningStep, halt, nmi, irq, nothing]

/-- Settles O5: the step begins, then fetches the bytes one by one. -/
theorem stepRunsTheDecodedInstruction : Obligations.StepRunsTheDecodedInstruction := by
  intro s i ready held
  obtain ⟨runs, q⟩ := step_ready ready
  obtain ⟨f, executes, regs, stores, trace⟩ := runInstr_of_holds (s := s.begin) q held
  obtain ⟨bytes, map, lines, quiet⟩ := stores.kept q
  exact ⟨f, runs.trans executes, regs, bytes, map, lines, quiet, trace⟩

/-- Settles O6: the byte fetched at pc has no row. -/
theorem stepRefusesAnUnassignedCode : Obligations.StepRefusesAnUnassignedCode := by
  intro s ready m code
  obtain ⟨runs, q⟩ := step_ready ready
  obtain ⟨-, uncut⟩ := (stores_fetch8 s.begin).quiet q
  have fetched : s.begin.fetch8.1 = s.byteAt s.pc := read8_value (s := s.begin) q m
  exact runs.trans (runInstr_unassigned uncut fetched code)

end Sys2Proof.Machine

namespace Sys2Proof.Machine

/-! ## Completion of the shared shapes: what an operation that ends in a write of an accumulator or the flags answers -/

section
variable {s t : State}

/-- Reads and VMA = 0 cycles, then an accumulator and the flags. -/
theorem writesAcc_setAcc_setFlags (r : Acc) {v : Byte} {f : Flags} {R : Byte → Flags → Prop} (rule : R v f)
    (regs : t = { s with board := t.board }) (reads : Stores [] s t) :
    WritesAcc r R s (.next ((t.setAcc r v).setFlags f)) := by
  have written : ((t.setAcc r v).setFlags f).acc r = v := by cases r <;> rfl
  refine ⟨_, rfl, ?rule, ?regs, (reads.of_board rfl (by simp)).kept⟩
  case rule => rwa [written, State.setFlags_cc]
  case regs =>
    rw [written, regs]
    cases r <;> rfl

/-- Reads and VMA = 0 cycles, then the flags. -/
theorem writesFlags_setFlags {f : Flags} {R : Flags → Prop} (rule : R f) (regs : t = { s with board := t.board })
    (reads : Stores [] s t) : WritesFlags R s (.next (t.setFlags f)) := by
  refine ⟨_, rfl, rule, ?_, (reads.of_board rfl rfl).kept⟩
  rw [regs]
  rfl

end

section
variable {s : State}

/-- The eight forms of a two-operand instruction, from what it does on any accumulator and operand. -/
theorem binaryForms_of {R : BinaryRule} {op : Acc → Operand8 → State → State}
    (form : ∀ r o, WritesAcc r (R (s.acc r) (o.read s).1 s.cc) s (.next (op r o s))) (m d o : Byte) (w : Word) :
    BinaryForms R s m d o w
      (.next (op .a (.imm m) s)) (.next (op .a (.mem (.dir d)) s)) (.next (op .a (.mem (.idx o)) s))
      (.next (op .a (.mem (.ext w)) s)) (.next (op .b (.imm m) s)) (.next (op .b (.mem (.dir d)) s))
      (.next (op .b (.mem (.idx o)) s)) (.next (op .b (.mem (.ext w)) s)) :=
  ⟨form .a (.imm m), form .a (.mem (.dir d)), form .a (.mem (.idx o)), form .a (.mem (.ext w)),
    form .b (.imm m), form .b (.mem (.dir d)), form .b (.mem (.idx o)), form .b (.mem (.ext w))⟩

/-- The same for an instruction that writes the flags alone. -/
theorem flagForms_of {R : Byte → Byte → Flags → Flags → Prop} {op : Acc → Operand8 → State → State}
    (form : ∀ r o, WritesFlags (R (s.acc r) (o.read s).1 s.cc) s (.next (op r o s))) (m d o : Byte) (w : Word) :
    FlagForms R s m d o w
      (.next (op .a (.imm m) s)) (.next (op .a (.mem (.dir d)) s)) (.next (op .a (.mem (.idx o)) s))
      (.next (op .a (.mem (.ext w)) s)) (.next (op .b (.imm m) s)) (.next (op .b (.mem (.dir d)) s))
      (.next (op .b (.mem (.idx o)) s)) (.next (op .b (.mem (.ext w)) s)) :=
  ⟨form .a (.imm m), form .a (.mem (.dir d)), form .a (.mem (.idx o)), form .a (.mem (.ext w)),
    form .b (.imm m), form .b (.mem (.dir d)), form .b (.mem (.idx o)), form .b (.mem (.ext w))⟩

/-- The four forms of a one-operand instruction (R133), from the rule that its computation meets. -/
theorem unaryForms_of {R : UnaryRule} {f : Byte → Flags → Byte × Flags} (rule : ∀ v g, R v g (f v g).1 (f v g).2)
    (s : State) (o : Byte) (w : Word) :
    UnaryForms R s o w (.next (unaryAcc f .a s)) (.next (unaryAcc f .b s)) (.next (unaryMem f (.idx o) s))
      (.next (unaryMem f (.ext w) s)) := by
  have onAcc (r : Acc) : WritesAcc r (R (s.acc r) s.cc) s (.next (unaryAcc f r s)) :=
    writesAcc_setAcc_setFlags (t := s.inherent) r (rule _ _) rfl (stores_inherent s)
  have onMemory (e : MemOperand) : RewritesMemory e R s (.next (unaryMem f e s)) := by
    refine ⟨_, _, rfl, ?rule, ?regs, (stores_unaryMem f e s).byte⟩
    case rule => rw [unaryMem_eq]; exact rule _ _
    case regs => rw [unaryMem_eq]
  exact ⟨onAcc .a, onAcc .b, onMemory (.idx o), onMemory (.ext w)⟩

end

/-! ## Additions, subtractions and comparisons (R131, R132, R134 to R141) -/

/-- Settles O12: the carry-in is 0 for ADD and ABA and the old C for ADC. -/
theorem additionForms : Obligations.AdditionForms := by
  intro s m d o w
  refine ⟨binaryForms_of (op := addOp) (fun r x => ?add) m d o w, ?aba,
    binaryForms_of (op := adcOp) (fun r x => ?adc) m d o w⟩
  case add => exact writesAcc_setAcc_setFlags r (add_isSum _ _ false _) (operand8_eq x s) (stores_operand8 x s)
  case aba => exact writesAcc_setAcc_setFlags (t := s.inherent) .a (add_isSum _ _ false _) rfl (stores_inherent s)
  case adc => exact writesAcc_setAcc_setFlags r (add_isSum _ _ s.cc.c _) (operand8_eq x s) (stores_operand8 x s)

/-- Settles O13: the borrow-in is 0 for SUB and SBA and the old C for SBC. -/
theorem subtractionForms : Obligations.SubtractionForms := by
  intro s m d o w
  refine ⟨binaryForms_of (op := subOp) (fun r x => ?sub) m d o w, ?sba,
    binaryForms_of (op := sbcOp) (fun r x => ?sbc) m d o w⟩
  case sub => exact writesAcc_setAcc_setFlags r (sub_isDifference _ _ false _) (operand8_eq x s) (stores_operand8 x s)
  case sba => exact writesAcc_setAcc_setFlags (t := s.inherent) .a (sub_isDifference _ _ false _) rfl (stores_inherent s)
  case sbc => exact writesAcc_setAcc_setFlags r (sub_isDifference _ _ s.cc.c _) (operand8_eq x s) (stores_operand8 x s)

/-- Settles O14: the flags of the subtraction, with the readings that `sub_isCompared` proves of them. -/
theorem compareForms : Obligations.CompareForms := by
  intro s m d o w
  refine ⟨flagForms_of (op := cmpOp) (fun r x => ?cmp) m d o w, ?cba⟩
  case cmp => exact writesFlags_setFlags (sub_isCompared _ _ _) (operand8_eq x s) (stores_operand8 x s)
  case cba => exact writesFlags_setFlags (t := s.inherent) (sub_isCompared _ _ _) rfl (stores_inherent s)

/-! ## One-operand instructions (R133, R142, R144 to R147, R176) -/

/-- Settles O19: both are the one-operand pattern with its own computation. -/
theorem negateAndComplementForms : Obligations.NegateAndComplementForms := fun s o w =>
  ⟨unaryForms_of negate_isNegated s o w, unaryForms_of complement_isComplemented s o w⟩

/-- Settles O20: both are the one-operand pattern with its own computation. -/
theorem incrementAndDecrementForms : Obligations.IncrementAndDecrementForms := fun s o w =>
  ⟨unaryForms_of increment_isIncremented s o w, unaryForms_of decrement_isDecremented s o w⟩

/-- TST on an accumulator reads the byte after the operation code and writes the flags (R64, R147). -/
theorem writesFlags_tstAcc (r : Acc) (s : State) :
    WritesFlags (IsTested (s.acc r) s.cc) s (.next (tstAcc r s)) :=
  writesFlags_setFlags (t := s.inherent) (test_isTested _ _) rfl (stores_inherent s)

/-- TST on memory makes the cycles of the one-operand pattern, with VMA = 0 in place of the write (R63, R147). -/
theorem writesFlags_tstMem (e : MemOperand) (s : State) :
    WritesFlags (IsTested (s.loaded e) s.cc) s (.next (tstMem e s)) := by
  refine ⟨_, rfl, test_isTested (s.loaded e) s.cc, ?_, (stores_tstMem e s).kept⟩
  apply State.ext <;> simp [tstMem, MemOperand.rmwRead]

/-- Settles O21: CLR is the one-operand pattern, TST its two shapes without the write. -/
theorem clearAndTestForms : Obligations.ClearAndTestForms := fun s o w =>
  ⟨unaryForms_of clear_isCleared s o w, writesFlags_tstAcc .a s, writesFlags_tstAcc .b s,
    writesFlags_tstMem (.idx o) s, writesFlags_tstMem (.ext w) s⟩

/-! ## Decimal adjustment (R143) -/

section
variable (free : Bool) (a : Byte) (f : Flags)

theorem decimalAdjust_toNat : (decimalAdjust free a f).1.toNat = (a.toNat + daaCorrection a f) % 256 :=
  BitVec.toNat_ofNat _ _

theorem decimalAdjust_zero : (decimalAdjust free a f).2.z = true ↔ (decimalAdjust free a f).1 = 0 :=
  decide_eq_true_iff

theorem decimalAdjust_carry :
    (decimalAdjust free a f).2.c = true ↔ f.c = true ∨ 255 < a.toNat + daaCorrection a f := by
  rw [decimalAdjust, Bool.or_eq_true, decide_eq_true_iff]

end

/-- Settles O24: DAA reads the byte after it and draws its free V, then writes A and the flags. -/
theorem daa_decimalAdjust : Obligations.DecimalAdjust := by
  intro s
  refine writesAcc_setAcc_setFlags (t := s.inherent.drawBit.2) .a ?_ rfl ((stores_inherent s).trans (stores_drawBit _))
  intro low high
  have total : s.a.toNat + low + high = s.a.toNat + daaCorrection s.a s.cc := Nat.add_assoc _ _ _
  rw [total]
  exact ⟨decimalAdjust_toNat _ _ _, msb_byte _, decimalAdjust_zero _ _ _, decimalAdjust_carry _ _ _, rfl, rfl⟩

/-! ## Decimal addition: DAA after an addition of packed decimal bytes (R131, R135, R136, R143) -/

/-- Two decimal digits, one in each half of the byte. -/
def IsPacked (b : Byte) : Prop := b.toNat % 16 ≤ 9 ∧ b.toNat / 16 ≤ 9

/-- The number that the two digits of a packed decimal byte write. -/
def decimalValue (b : Byte) : Nat := b.toNat / 16 * 10 + b.toNat % 16

/-- After an addition of packed decimal bytes, DAA corrects each digit exactly if the decimal addition carries out of it:
H and C tell of the digit sums from 16 on, the digits of the result of those from 10 to 15. -/
theorem daaCorrection_add {x y : Byte} (hx : IsPacked x) (hy : IsPacked y) (c : Bool) (f : Flags) :
    daaCorrection (addResult x y c) (addFlags x y c f) =
      (if 10 ≤ x.toNat % 16 + y.toNat % 16 + bitNat c then 0x06 else 0) +
        (if 100 ≤ decimalValue x + decimalValue y + bitNat c then 0x60 else 0) := by
  obtain ⟨lowX, highX⟩ := hx
  obtain ⟨lowY, highY⟩ := hy
  have carryIn := bitNat_le c
  obtain ⟨sum, half, -, -, -, -, carry, -⟩ := add_isSum x y c f
  have low : (9 < (addResult x y c).toNat % 16 ∨ (addFlags x y c f).h = true) ↔
      10 ≤ x.toNat % 16 + y.toNat % 16 + bitNat c := by
    rw [half, sum]
    omega
  have high : (9 < (addResult x y c).toNat / 16 ∨ (addFlags x y c f).c = true ∨
      (8 < (addResult x y c).toNat / 16 ∧ 9 < (addResult x y c).toNat % 16)) ↔
      100 ≤ decimalValue x + decimalValue y + bitNat c := by
    rw [carry, sum, decimalValue, decimalValue]
    omega
  simp only [daaCorrection, low, high]

/-- The binary sum with its corrections writes, in its hexadecimal digits, the decimal digits of the decimal sum: each
correction turns a carry out of a digit at 10 into one at 16. -/
theorem corrected_add_digits {x y : Byte} (hx : IsPacked x) (hy : IsPacked y) (c : Bool) (f : Flags) :
    ∃ k h l, k ≤ 1 ∧ h ≤ 9 ∧ l ≤ 9 ∧ decimalValue x + decimalValue y + bitNat c = 100 * k + 10 * h + l ∧
      x.toNat + y.toNat + bitNat c + daaCorrection (addResult x y c) (addFlags x y c f) = 256 * k + 16 * h + l := by
  rw [daaCorrection_add hx hy]
  obtain ⟨lowX, highX⟩ := hx
  obtain ⟨lowY, highY⟩ := hy
  have carryIn := bitNat_le c
  unfold decimalValue
  let low := x.toNat % 16 + y.toNat % 16 + bitNat c
  let high := x.toNat / 16 + y.toNat / 16 + low / 10
  refine ⟨high / 10, high % 10, low % 10, ?_⟩
  split_ifs <;> omega

/-- The decimal reading of an addition with carry: the digits of the sum modulo 100, and its carry in C. -/
def IsDecimalSum (x y : Byte) (c : Bool) (res : Byte) (f' : Flags) : Prop :=
  res.toNat % 16 ≤ 9 ∧ res.toNat / 16 ≤ 9 ∧ decimalValue res = (decimalValue x + decimalValue y + bitNat c) % 100 ∧
    (f'.c = true ↔ 100 ≤ decimalValue x + decimalValue y + bitNat c)

/-- The binary sum of packed decimal bytes, corrected, is their decimal sum. -/
theorem decimalAdjust_add_isDecimalSum {x y : Byte} (hx : IsPacked x) (hy : IsPacked y) (c : Bool) (f : Flags)
    (free : Bool) :
    IsDecimalSum x y c (decimalAdjust free (addResult x y c) (addFlags x y c f)).1
      (decimalAdjust free (addResult x y c) (addFlags x y c f)).2 := by
  obtain ⟨sum, -, -, -, -, -, carry, -⟩ := add_isSum x y c f
  obtain ⟨k, h, l, hk, hh, hl, decimal, corrected⟩ := corrected_add_digits hx hy c f
  have digits : (decimalAdjust free (addResult x y c) (addFlags x y c f)).1.toNat = 16 * h + l := by
    rw [decimalAdjust_toNat, sum]
    omega
  rw [IsDecimalSum, decimalAdjust_carry, carry, decimalValue, digits, sum, decimal]
  omega

/-- DAA where A and the flags are those that an addition of packed decimal bytes left. -/
theorem daa_after_add {u v : State} {x y : Byte} {c : Bool} {f : Flags} (hx : IsPacked x) (hy : IsPacked y)
    (a : u.a = addResult x y c) (cc : u.cc = addFlags x y c f) (runs : exec .daa u = .next v) :
    IsDecimalSum x y c v.a v.cc := by
  cases runs
  rw [daaOp_eq, a, cc]
  exact decimalAdjust_add_isDecimalSum hx hy c f _

/-- Settles O25: the carry-in is the old C for ADCA and 0 for ADDA. -/
theorem decimalAddition : Obligations.DecimalAddition := by
  intro s t u v w m lowA highA lowM highM
  refine ⟨fun adds a cc adjusts => ?adca, fun adds a cc adjusts => ?adda⟩ <;> cases adds
  case adca => exact daa_after_add ⟨lowA, highA⟩ ⟨lowM, highM⟩ a cc adjusts
  case adda => exact daa_after_add (c := false) ⟨lowA, highA⟩ ⟨lowM, highM⟩ a cc adjusts

end Sys2Proof.Machine

namespace Sys2Proof.Machine

/-! ## Logic and loads (R170, R172 to R175, R182, R186, R187) -/

/-- Settles O15: AND writes its result, BIT only the flags of the same result. -/
theorem andAndBitForms : Obligations.AndAndBitForms := by
  intro s m d o w
  refine ⟨binaryForms_of (op := andOp) (fun r x => ?and) m d o w, flagForms_of (op := bitOp) (fun r x => ?bit) m d o w⟩
  case and => exact writesAcc_setAcc_setFlags r (and_isAnd _ _ _) (operand8_eq x s) (stores_operand8 x s)
  case bit => exact writesFlags_setFlags ⟨_, and_isAnd _ _ _⟩ (operand8_eq x s) (stores_operand8 x s)

/-- Settles O16: ORA and EOR differ in the rule of the result alone. -/
theorem orForms : Obligations.OrForms := by
  intro s m d o w
  refine ⟨binaryForms_of (op := oraOp) (fun r x => ?ora) m d o w, binaryForms_of (op := eorOp) (fun r x => ?eor) m d o w⟩
  case ora => exact writesAcc_setAcc_setFlags r (or_isOr _ _ _) (operand8_eq x s) (stores_operand8 x s)
  case eor => exact writesAcc_setAcc_setFlags r (xor_isExclusiveOr _ _ _) (operand8_eq x s) (stores_operand8 x s)

theorem load_isLoad (a m : Byte) (f : Flags) : IsLoad a m f m (logicFlags m f) := ⟨rfl, logic_isMoved m f⟩

/-- Settles O17: the byte comes from the operand, or from the other accumulator after a read that is discarded. -/
theorem loadForms : Obligations.LoadForms := by
  intro s m d o w
  refine ⟨binaryForms_of (op := ldaOp) (fun r x => ?lda) m d o w, ?tab, ?tba⟩
  case lda => exact writesAcc_setAcc_setFlags r (load_isLoad _ _ _) (operand8_eq x s) (stores_operand8 x s)
  case tab => exact writesAcc_setAcc_setFlags (t := s.inherent) .b (load_isLoad _ _ _) rfl (stores_inherent s)
  case tba => exact writesAcc_setAcc_setFlags (t := s.inherent) .a (load_isLoad _ _ _) rfl (stores_inherent s)

/-! ## Stores (R170, R183) -/

/-- STA stores its accumulator at the operand's address and writes no register but the flags. -/
theorem storesByte_staOp (r : Acc) (e : MemOperand) (s : State) : StoresByte e (s.acc r) s (.next (staOp r e s)) := by
  refine ⟨_, rfl, logic_isMoved (s.acc r) s.cc, ?regs, (stores_staOp r e s).byte⟩
  case regs => apply State.ext <;> simp [staOp]

/-- Settles O18: the six forms are STA on each accumulator and operand. -/
theorem storeForms : Obligations.StoreForms := fun s d o w =>
  ⟨storesByte_staOp .a (.dir d) s, storesByte_staOp .a (.idx o) s, storesByte_staOp .a (.ext w) s,
    storesByte_staOp .b (.dir d) s, storesByte_staOp .b (.idx o) s, storesByte_staOp .b (.ext w) s⟩

/-! ## Rotates and shifts (R171, R177 to R181) -/

/-- Settles O22: both are the one-operand pattern with its own computation. -/
theorem rotateForms : Obligations.RotateForms := fun s o w =>
  ⟨unaryForms_of rotateLeft_isRotatedLeft s o w, unaryForms_of rotateRight_isRotatedRight s o w⟩

/-- Settles O23: all three are the one-operand pattern with its own computation. -/
theorem shiftForms : Obligations.ShiftForms := fun s o w =>
  ⟨unaryForms_of shiftLeft_isShiftedLeft s o w, unaryForms_of shiftRightArith_isHalvedSigned s o w,
    unaryForms_of shiftRight_isHalved s o w⟩

/-! ## PSH and PUL (R56, R184, R185) -/

/-- PSH lowers SP and writes no other register. -/
theorem pshOp_eq (r : Acc) (s : State) : pshOp r s = { s with sp := s.sp - 1, board := (pshOp r s).board } := rfl

/-- PUL raises SP and writes its accumulator, and no other register. -/
theorem pulOp_eq (r : Acc) (s : State) :
    pulOp r s = { s.setAcc r ((pulOp r s).acc r) with sp := s.sp + 1, board := (pulOp r s).board } := by
  cases r <;> rfl

/-- PUL loads the byte above SP: before the pull it only reads the byte after it and makes a VMA = 0 cycle. -/
theorem pulOp_value (r : Acc) {s : State} (q : s.Quiet) (m : s.isMemory (s.sp + 1) = true) :
    (pulOp r s).acc r = s.byteAt (s.sp + 1) := by
  have loads : (pulOp r s).acc r = (s.inherent.idle (vmaLow s.sp)).pull8.1 := by cases r <;> rfl
  rw [loads]
  exact ((stores_inherent s).trans (stores_idle (vmaLow s.sp) _)).pull8_value q rfl m

/-- Settles O26: each of the two instructions, on each accumulator. -/
theorem pushAndPullForms : Obligations.PushAndPullForms := fun s =>
  ⟨⟨_, rfl, pshOp_eq .a s, (stores_pshOp .a s).byte⟩, ⟨_, rfl, pshOp_eq .b s, (stores_pshOp .b s).byte⟩,
    ⟨_, rfl, pulOp_eq .a s, (stores_pulOp .a s).kept, pulOp_value .a⟩,
    ⟨_, rfl, pulOp_eq .b s, (stores_pulOp .b s).kept, pulOp_value .b⟩⟩

end Sys2Proof.Machine

namespace Sys2Proof.Machine

/-! ## CPX (R211, decision D16) -/

/-- CPX reads its operand and writes the flags alone. -/
theorem writesFlags_cpxOp (x : Operand16) (s : State) :
    WritesFlags (IsCompared16 s.x (x.read s).1 s.cc) s (.next (cpxOp x s)) :=
  writesFlags_setFlags (compareIndex_isCompared16 _ _ _) (operand16_eq x s) (stores_operand16 x s)

/-- Settles O27: the four forms are CPX on each operand. -/
theorem compareIndexForms : Obligations.CompareIndexForms := fun s d o w =>
  ⟨writesFlags_cpxOp (.imm w) s, writesFlags_cpxOp (.mem (.dir d)) s, writesFlags_cpxOp (.mem (.idx o)) s,
    writesFlags_cpxOp (.mem (.ext w)) s⟩

/-! ## LDX and LDS (R210, R216, R217) -/

/-- LDX writes X and the flags, from the operand that the old X addresses. -/
theorem ldxOp_eq (x : Operand16) (s : State) :
    ldxOp x s = { s with x := (x.read s).1, cc := flags16 (x.read s).1 s.cc, board := (ldxOp x s).board } := by
  apply State.ext <;> simp [ldxOp]

/-- LDS writes SP and the flags. -/
theorem ldsOp_eq (x : Operand16) (s : State) :
    ldsOp x s = { s with sp := (x.read s).1, cc := flags16 (x.read s).1 s.cc, board := (ldsOp x s).board } := by
  apply State.ext <;> simp [ldsOp]

/-- What an instruction does with every 16-bit operand, it does in its four forms. -/
theorem wordForms_of {op : Operand16 → State → State} {s : State} {P : Word → Result → Prop}
    (form : ∀ x : Operand16, P (x.read s).1 (.next (op x s))) (d o : Byte) (w v : Word) (out : Result)
    (listed : (v, out) ∈ [(w, .next (op (.imm w) s)), (s.loaded16 (.dir d), .next (op (.mem (.dir d)) s)),
      (s.loaded16 (.idx o), .next (op (.mem (.idx o)) s)), (s.loaded16 (.ext w), .next (op (.mem (.ext w)) s))]) :
    P v out := by
  simp only [List.mem_cons, List.not_mem_nil, or_false, Prod.mk.injEq] at listed
  obtain ⟨rfl, rfl⟩ | ⟨rfl, rfl⟩ | ⟨rfl, rfl⟩ | ⟨rfl, rfl⟩ := listed
  · exact form (.imm v)
  · exact form (.mem (.dir d))
  · exact form (.mem (.idx o))
  · exact form (.mem (.ext w))

/-- Settles O28: each load, on any operand. -/
theorem loadWordForms : Obligations.LoadWordForms := by
  intro s d o w
  refine ⟨wordForms_of (op := ldxOp) (fun x => ⟨_, rfl, ?ldxFlags, ldxOp_eq x s, (stores_ldxOp x s).kept⟩) d o w,
    wordForms_of (op := ldsOp) (fun x => ⟨_, rfl, ?ldsFlags, ldsOp_eq x s, (stores_ldsOp x s).kept⟩) d o w⟩
  case ldxFlags => exact flags16_isMoved16 _ _
  case ldsFlags => exact flags16_isMoved16 _ _

/-! ## STX and STS (R55, R210, R218, R219) -/

/-- STX stores X at the operand's address and writes no register but the flags. -/
theorem storesWord_stxOp (e : MemOperand) (s : State) : StoresWord e s.x s (.next (stxOp e s)) := by
  refine ⟨_, rfl, flags16_isMoved16 s.x s.cc, ?regs, (stores_stxOp e s).word⟩
  case regs => apply State.ext <;> simp [stxOp]

/-- STS stores SP at the operand's address and writes no register but the flags. -/
theorem storesWord_stsOp (e : MemOperand) (s : State) : StoresWord e s.sp s (.next (stsOp e s)) := by
  refine ⟨_, rfl, flags16_isMoved16 s.sp s.cc, ?regs, (stores_stsOp e s).word⟩
  case regs => apply State.ext <;> simp [stsOp]

/-- Settles O29: the six forms are STX and STS on each memory operand. -/
theorem storeWordForms : Obligations.StoreWordForms := fun s d o w =>
  ⟨storesWord_stxOp (.dir d) s, storesWord_stxOp (.idx o) s, storesWord_stxOp (.ext w) s,
    storesWord_stsOp (.dir d) s, storesWord_stsOp (.idx o) s, storesWord_stsOp (.ext w) s⟩

/-! ## DEX, INX, DES, INS, TXS and TSX (R212 to R215, R220, R221) -/

theorem word_sub_one_toNat (w : Word) : ((w - 1).toNat : Int) = ((w.toNat : Int) - 1) % 65536 := by
  have difference : (w - 1).toNat = (65536 - 1 + w.toNat) % 65536 := BitVec.toNat_sub w 1
  omega

theorem word_add_one_toNat (w : Word) : (w + 1).toNat = (w.toNat + 1) % 65536 := BitVec.toNat_add w 1

theorem zeroFlag16_z (w : Word) (f : Flags) : (zeroFlag16 w f).z = true ↔ w = 0 := decide_eq_true_iff

/-- A register moved after the cycles that these six instructions share, which change the board alone. -/
theorem becomes_inherent4 (c : BusCycle) {f : State → State} {s t : State}
    (regs : t = { f s with board := (s.inherent4 c).board }) : Becomes f s (.next t) := by
  refine ⟨t, rfl, ?_, ((stores_inherent4 c s).of_board rfl ?_).kept⟩ <;> rw [regs]

/-- Settles O30: a register moves after cycles that only read; DEX and INX then set Z from it. -/
theorem indexAndStackArithmetic : Obligations.IndexAndStackArithmetic := by
  intro s
  refine ⟨⟨_, rfl, word_sub_one_toNat s.x, zeroFlag16_z _ _, rfl, ?dex⟩,
    ⟨_, rfl, word_add_one_toNat s.x, zeroFlag16_z _ _, rfl, ?inx⟩,
    becomes_inherent4 (vmaLow s.sp) rfl, becomes_inherent4 (vmaLow s.sp) rfl, becomes_inherent4 vmaLowUnstated rfl,
    becomes_inherent4 vmaLowUnstated rfl⟩
  case dex => exact ((stores_inherent4 (vmaLow s.x) s).of_board rfl rfl).kept
  case inx => exact ((stores_inherent4 (vmaLow s.x) s).of_board rfl rfl).kept

end Sys2Proof.Machine

namespace Sys2Proof.Machine

/-! ## JMP and NOP (R257, R259) -/

/-- Settles O33: JMP indexed makes two VMA = 0 cycles, JMP extended none, NOP reads the byte after it. -/
theorem jumpsAndNop : Obligations.JumpsAndNop := by
  intro s o w
  refine ⟨⟨jmpIndexedOp o s, rfl, ?target, rfl, ?cycles⟩, ⟨_, rfl, rfl, ?extended⟩, ⟨_, rfl, rfl, ?nop⟩⟩
  case target => exact (BitVec.toNat_add s.x (zext16 o)).trans (by rw [zext16_toNat])
  case cycles => exact ((stores_idles (indexCycles s.x o) s).of_board rfl rfl).kept
  case extended => exact ((Stores.refl s).of_board rfl rfl).kept
  case nop => exact (stores_inherent s).kept

/-! ## SWI and WAI (R262, R263, R317) -/

/-- The byte after SWI or WAI is read and discarded, then the frame is stacked. -/
theorem stores_inherent_pushFrame (s : State) : Stores s.frame s s.inherent.pushFrame :=
  (stores_inherent s).trans (stores_pushFrame s.inherent)

/-- The frame of SWI stands before the entry begins. -/
theorem stores_beforeEntry (s : State) : Stores s.frame s (s.inherent.pushFrame.idle (vmaLow (s.sp - 7))) :=
  (stores_inherent_pushFrame s).trans (stores_idle _ _)

theorem stores_swiOp (s : State) : Stores s.frame s (swiOp s) := (stores_beforeEntry s).trans (stores_enter vectorSwi _)

theorem stores_waiOp (s : State) : Stores s.frame s (waiOp s) := (stores_inherent_pushFrame s).of_board rfl rfl

/-- SWI loads pc with the word that stands at its vector after the frame has been stored. -/
theorem swiOp_pc {s : State} (q : s.Quiet) (v : s.VectorReadable vectorSwi) : (swiOp s).pc = (swiOp s).wordAt vectorSwi := by
  have before := stores_beforeEntry s
  obtain ⟨q', -⟩ := before.quiet q
  exact (before.enter_pc q v).trans ((stores_enter vectorSwi _).wordAt_eq q' vectorSwi).symm

/-- Settles O36: SWI stacks the frame and enters through its vector. -/
theorem softwareInterrupt : Obligations.SoftwareInterrupt := by
  intro s
  refine ⟨swiOp s, rfl, ?regs, (stores_swiOp s).frame, swiOp_pc⟩
  case regs => apply State.ext <;> simp [swiOp]

/-- Settles O37: WAI stacks the frame and waits. -/
theorem waitForInterrupt : Obligations.WaitForInterrupt := by
  intro s
  refine ⟨waiOp s, rfl, ?regs, (stores_waiOp s).frame⟩
  case regs => apply State.ext <;> simp [waiOp]

/-! ## Stores to a stack in RAM are read back (R68, R407) -/

/-- After stores to different bytes of RAM, each byte stored is what its address reads as. -/
theorem QuietlyStored.byteAt {l : List (Addr × Byte)} {s t : State} (h : QuietlyStored l s t) (q : s.Quiet)
    (ok : s.MemoryOk) (w : s.Writable (l.map Prod.fst)) {a : Addr} {v : Byte} (stored : (a, v) ∈ l) : t.byteAt a = v := by
  obtain ⟨bytes, -⟩ := h q ok
  obtain ⟨ram, apart⟩ := w
  obtain ⟨before, after, rfl⟩ := List.append_of_mem stored
  have later : ∀ p ∈ after, ¬s.SameByte a p.1 := by
    rw [List.pairwise_map, List.pairwise_append] at apart
    obtain ⟨-, apart, -⟩ := apart
    exact fun p => List.rel_of_pairwise_cons apart
  rw [bytes, s.afterStores_last (ram a (List.mem_map_of_mem stored)) later]

/-- RAM is read as memory. -/
theorem MemMap.isMemory_of_isRam {m : MemMap} {a : Nat} (h : m.isRam a = true) : m.isMemory a = true := by
  unfold MemMap.isRam at h
  unfold MemMap.isMemory
  split at h
  · rename_i region
    rw [region]
  · cases h

/-- What is RAM in one state can be read as memory in every state with the same map. -/
theorem State.isMemory_of_isRam {s u : State} (map : u.board.map = s.board.map) {a : Addr} (h : s.isRam a = true) :
    u.isMemory a = true := by
  unfold State.isMemory
  rw [map]
  exact MemMap.isMemory_of_isRam h

/-- A word is its high-order byte, then its low-order byte. -/
theorem State.wordAt_eq_of_bytes {s : State} {a : Addr} {w : Word} (high : s.byteAt a = hi w)
    (low : s.byteAt (a + 1) = lo w) : s.wordAt a = w := by
  unfold State.wordAt
  rw [high, low]
  exact join_hi_lo w

/-! ## A call and the return from it (R256, R258, R261) -/

/-- BSR and JSR are calls, whatever their target. -/
theorem calls_of_mem {i : Instr} {r o : Byte} {w : Word} (listed : i ∈ [Instr.bsr r, .jsrIdx o, .jsrExt w]) (s : State) :
    ∃ target, Calls target s (exec i s) := by
  obtain ⟨bsr, jsrIdx, jsrExt⟩ := subroutineCalls s r o w
  simp only [List.mem_cons, List.not_mem_nil, or_false] at listed
  obtain rfl | rfl | rfl := listed
  · exact ⟨_, bsr⟩
  · exact ⟨_, jsrIdx⟩
  · exact ⟨_, jsrExt⟩

/-- Settles O42: the call leaves SP two below the return address, which RTS pulls. -/
theorem callReturnRoundTrip : Obligations.CallReturnRoundTrip := by
  intro s t u i r o w listed q ok writable call qu map spKept lowKept highKept
  obtain ⟨target, t', call', regs, pushed⟩ := calls_of_mem listed s
  cases call.symm.trans call'
  have low : u.byteAt s.sp = lo s.pc := lowKept.trans (pushed.byteAt q ok writable (by simp))
  have high : u.byteAt (s.sp - 1) = hi s.pc := highKept.trans (pushed.byteAt q ok writable (by simp))
  have sp : u.sp = s.sp - 2 := by rw [spKept, regs]
  have sp1 : u.sp + 1 = s.sp - 1 := by rw [sp]; bv_omega
  have sp2 : u.sp + 2 = s.sp := by rw [sp]; bv_omega
  have next : s.sp - 1 + 1 = s.sp := by bv_omega
  obtain ⟨ram, -⟩ := writable
  have readable (a : Addr) (on : a ∈ [s.sp, s.sp - 1]) : u.isMemory a = true := State.isMemory_of_isRam map (ram a on)
  obtain ⟨v, returns, regs', -, pulled⟩ := returnFromSubroutine u
  refine ⟨v, returns, ?sp, ?pc⟩
  case sp => rw [regs', ← sp2]
  case pc =>
    rw [sp1, sp2] at pulled
    rw [pulled qu (readable _ (by simp)) (readable _ (by simp))]
    exact State.wordAt_eq_of_bytes high (by rw [next, low])

/-! ## SWI and the return from it (R260, R262, R317, R321) -/

/-- The addresses of a frame, counted downward from SP. -/
theorem State.frameAddrs_eq (s : State) : s.frameAddrs = (List.range 7).map (fun k => s.sp - BitVec.ofNat 16 k) := by
  simp [State.frameAddrs, State.frame, List.range_succ]

theorem State.mem_frameAddrs {s : State} {a : Addr} : a ∈ s.frameAddrs ↔ ∃ k < 7, s.sp - BitVec.ofNat 16 k = a := by
  simp only [State.frameAddrs_eq, List.mem_map, List.mem_range]

/-- A frame in RAM below SP can be pulled by a state whose SP is seven below, with the same map. -/
theorem State.frameReadable_of_isRam {s u : State} (map : u.board.map = s.board.map) (sp : u.sp = s.sp - 7)
    (ram : ∀ a ∈ s.frameAddrs, s.isRam a = true) : u.FrameReadable := by
  intro k hk
  have e : s.sp - BitVec.ofNat 16 (6 - k) = u.sp + 1 + BitVec.ofNat 16 k := by rw [sp]; bv_omega
  exact State.isMemory_of_isRam map (ram _ (State.mem_frameAddrs.mpr ⟨6 - k, by omega, e⟩))

@[simp] theorem pullFrame_sp (s : State) : s.pullFrame.sp = s.sp + 7 := by rw [pullFrame_eq]

/-- RTI at a state that holds the frame of `s` takes the registers of `s` from it (R260, R321). -/
theorem rtiOp_of_frame {s u : State} (q : u.Quiet) (readable : u.FrameReadable) (sp : u.sp = s.sp - 7)
    (frame : ∀ p ∈ s.frame, u.byteAt p.1 = p.2) :
    (rtiOp u).a = s.a ∧ (rtiOp u).b = s.b ∧ (rtiOp u).x = s.x ∧ (rtiOp u).sp = s.sp ∧ (rtiOp u).cc = s.cc ∧
      (rtiOp u).pc = s.pc := by
  have held (k m : Word) {v : Byte} (seven : k + m = 7) (stored : (s.sp - m, v) ∈ s.frame) :
      u.byteAt (u.sp + k) = v := by
    have e : u.sp + k = s.sp - m := by rw [sp, ← seven]; bv_omega
    rw [e]
    exact frame _ stored
  have next : u.sp + 4 + 1 = u.sp + 5 ∧ u.sp + 6 + 1 = u.sp + 7 := by constructor <;> bv_omega
  have xHigh := held 4 3 (v := hi s.x) rfl (by simp [State.frame])
  have xLow := held 5 2 (v := lo s.x) rfl (by simp [State.frame])
  have pcHigh := held 6 1 (v := hi s.pc) rfl (by simp [State.frame])
  have pcLow := held 7 0 (v := lo s.pc) rfl (by simp [State.frame])
  obtain ⟨cc, b, a, x, pc⟩ :=
    ((stores_inherent u).trans (stores_idle (vmaLow u.sp) _)).pullFrame_value q readable rfl
  refine ⟨a.trans (held 3 4 rfl (by simp [State.frame])), b.trans (held 2 5 rfl (by simp [State.frame])),
    x.trans (State.wordAt_eq_of_bytes xHigh (next.1 ▸ xLow)), ?sp, cc.trans ?flags,
    pc.trans (State.wordAt_eq_of_bytes pcHigh (next.2 ▸ pcLow))⟩
  case sp =>
    have raised : (rtiOp u).sp = u.sp + 7 := pullFrame_sp _
    rw [raised, sp]
    bv_omega
  case flags =>
    rw [held 1 6 (v := s.cc.asByte) rfl (by simp [State.frame])]
    exact Flags.ofByte_toByte s.cc

/-- Settles O41: SWI stacks the frame that RTI pulls. -/
theorem interruptFrameRoundTrip : Obligations.InterruptFrameRoundTrip := by
  intro s t u q ok writable swi qu map spKept kept
  obtain ⟨t', swi', regs, stored, -⟩ := softwareInterrupt s
  cases swi.symm.trans swi'
  have sp : u.sp = s.sp - 7 := by rw [spKept, regs]
  have frame : ∀ p ∈ s.frame, u.byteAt p.1 = p.2 := by
    intro p hp
    obtain ⟨k, hk, e⟩ := State.mem_frameAddrs.mp (List.mem_map_of_mem (f := Prod.fst) hp)
    rw [← e, kept k hk, e]
    exact stored.byteAt q ok writable hp
  obtain ⟨ram, -⟩ := writable
  exact ⟨rtiOp u, rfl, rtiOp_of_frame qu (State.frameReadable_of_isRam map sp ram) sp frame⟩

end Sys2Proof.Machine

namespace Sys2Proof.Machine

/-! ## CLC, CLI, CLV, SEC, SEI and SEV (R290 to R295, decision D7) -/

/-- An instruction of this group reads the byte after it and then writes the flags, which alone of the registers change. -/
theorem becomes_flagOp {f : State → State} {g : Flags} {s : State} (regs : { s with cc := g } = f s) :
    Becomes f s (.next (flagOp g s)) := by
  refine ⟨flagOp g s, rfl, ?registers, (stores_flagOp g s).kept⟩
  case registers =>
    rw [← regs]
    rfl

/-- With I clear a boundary asks for an IRQ exactly when the line is low. -/
theorem irqAsked_of_unmasked {s : State} (unmasked : s.cc.i = false) : s.irqAsked = s.board.irqLow := by
  rw [State.irqAsked, unmasked, Bool.not_false, Bool.and_true]

/-- Settles O38: the flags written are the old ones but for one, and I as written decides at the boundary that follows. -/
theorem conditionCodeBits : Obligations.ConditionCodeBits := by
  intro s
  refine ⟨becomes_flagOp rfl, becomes_flagOp rfl, becomes_flagOp rfl, becomes_flagOp rfl, becomes_flagOp rfl,
    becomes_flagOp rfl, fun t cli => ?unmasked, fun t sei => ?masked⟩
  case unmasked =>
    cases cli
    exact irqAsked_of_unmasked rfl
  case masked =>
    cases sei
    exact (irqAsked_eq_false _).2 (.inr rfl)

end Sys2Proof.Machine

namespace Sys2Proof.Machine

/-! ## Where the machine stops (R103, R310, decision D4) -/

/-- The outcome is a next state, or the refusal of an unassigned operation code fetched at `pc`. -/
inductive NextOrUndefined (pc : Addr) : Result → Prop where
  | next (t : State) : NextOrUndefined pc (.next t)
  | refused {op : Byte} (code : op ∈ unassignedCodes) : NextOrUndefined pc (.refused (.undefinedOpcode op pc))

/-- Every meaning answers a next state, so none stops. -/
theorem exec_nextOrUndefined (pc : Addr) (i : Instr) (s : State) : NextOrUndefined pc (exec i s) := by
  obtain ⟨t, answers, -⟩ := exec_keeps i s
  rw [answers]
  exact .next t

/-- A code that decodes to an error has no row. -/
theorem mem_unassignedCodes_of_error {op : Byte} {e : DecodeError} (h : decodeOp op = .error e) :
    op ∈ unassignedCodes :=
  (lookupOp_eq_none_iff op).1 ((decodeOp_ne_ok_iff op).1 (by rw [h]; nofun))

theorem runInstr_nextOrUndefined (s : State) : NextOrUndefined s.pc s.runInstr := by
  unfold State.runInstr
  dsimp only
  split
  case isTrue => exact .next _
  case isFalse =>
    split
    case h_1 noRow => exact .refused (mem_unassignedCodes_of_error noRow)
    case h_2 => exact exec_nextOrUndefined _ _ _
    case h_3 => exact exec_nextOrUndefined _ _ _
    case h_4 => exact exec_nextOrUndefined _ _ _

theorem haltIrqStep_nextOrUndefined (s : State) : NextOrUndefined s.pc s.haltIrqStep := by
  unfold State.haltIrqStep
  dsimp only
  split
  case isTrue => exact .next _
  case isFalse => exact runInstr_nextOrUndefined (State.drawBit { s with haltIrq := false }).2

theorem runningStep_nextOrUndefined (s : State) : NextOrUndefined s.pc s.runningStep := by
  unfold State.runningStep
  split
  case isTrue => exact .next _
  case isFalse =>
    split
    case isTrue => exact .next _
    case isFalse =>
      split
      case isTrue => exact .next _
      case isFalse =>
        split
        case isTrue => exact haltIrqStep_nextOrUndefined s
        case isFalse => exact runInstr_nextOrUndefined s

/-- Of the run states, RUNNING alone can stop, and only where it fetches. -/
theorem step_nextOrUndefined (s : State) : NextOrUndefined s.pc (step s) := by
  unfold step State.advance
  dsimp only
  split
  case isTrue => exact .next _
  case isFalse =>
    split
    case isTrue => exact .next _
    case isFalse =>
      split
      case isTrue => exact .next _
      case isFalse =>
        split
        case h_1 => exact .next _
        case h_2 => exact .next _
        case h_3 => exact .next _
        case h_4 => exact runningStep_nextOrUndefined s.begin

/-- Settles O7: a step is a next state, or the refusal of a code without a row. -/
theorem nothingElseStopsTheMachine : Obligations.NothingElseStopsTheMachine := by
  intro s
  have outcome := step_nextOrUndefined s
  generalize step s = out at outcome
  cases outcome with
  | next t => exact ⟨nofun, nofun⟩
  | refused code =>
    refine ⟨nofun, fun r refusal => ?_⟩
    cases refusal
    exact ⟨_, code, rfl⟩

/-! ## The entries from RUNNING (R312, R313, R315, R316, decision D3) -/

theorem runningStep_nmi {s : State} (halt : s.board.lines.haltLow = false) (nmi : s.board.nmiPending = true) :
    s.runningStep = .next (s.takeInterrupt vectorNmi) := by
  rw [State.runningStep, if_neg (by simp [halt]), if_pos nmi]

theorem runningStep_irq {s : State} (halt : s.board.lines.haltLow = false) (nmi : s.board.nmiPending = false)
    (irq : s.irqAsked = true) :
    s.runningStep = .next (State.takeInterrupt vectorIrq { s with haltIrq := false }) := by
  rw [State.runningStep, if_neg (by simp [halt]), if_neg (by simp [nmi]), if_pos irq]

/-- The acknowledgement clears the latch, and the vector reads that follow set nothing (R36, R316). -/
theorem takeInterrupt_nmiPending {s : State} (q : s.Quiet) (v : s.VectorReadable vectorNmi) :
    (s.takeInterrupt vectorNmi).board.nmiPending = false :=
  (((stores_idles [vmaLowUnstated, vmaLowUnstated] s).trans (stores_pushFrame _)).trans
    (stores_idle vmaLowUnstated _)).enter_nmiPending q v

/-- Settles O43: an NMI latched is taken whatever IRQ and I are. -/
theorem nmiEntry : Obligations.NmiEntry := by
  rintro s ⟨run, asked, kept, env⟩ halt nmi
  have q := begin_quiet asked env
  rw [step_running asked kept run, runningStep_nmi (s := s.begin) halt nmi]
  exact ⟨_, rfl, takeInterrupt_eq _ _, (stores_takeInterrupt _ _).frame, ticks_takeInterrupt _ _,
    fun v => ⟨takeInterrupt_pc q v, takeInterrupt_nmiPending q v⟩⟩

/-- Settles O44: the entry forgets the IRQ remembered from a halt and stacks the same frame. -/
theorem irqEntry : Obligations.IrqEntry := by
  rintro s ⟨run, asked, kept, env⟩ halt nmi low unmasked
  have q := begin_quiet asked env
  have irq : s.begin.irqAsked = true := (irqAsked_eq_true s).2 ⟨low, unmasked⟩
  rw [step_running asked kept run, runningStep_irq (s := s.begin) halt nmi irq]
  have stored := stores_takeInterrupt vectorIrq { s.begin with haltIrq := false }
  exact ⟨_, rfl, takeInterrupt_eq _ _, (Stores.of_board stored rfl rfl).frame, ticks_takeInterrupt _ _,
    fun v => takeInterrupt_pc (s := { s.begin with haltIrq := false }) q v⟩

/-! ## Reset (R327, R400, R402, U7, U8) -/

/-- A step that finds a Reset in any run state but RESET. -/
theorem step_resetAsked {s : State} (run : s.run ≠ .reset) (asked : s.resetAsked = true) :
    step s = .next { s.begin with run := .reset } := by
  simp [step, State.advance, run, asked]

theorem step_reset {s : State} (run : s.run = .reset) : step s = .next s.begin.resetStep := by
  simp [step, State.advance, run]

/-- With the line high again, a pulse of at least eight cycles (or none, with the clock kept) lets the MPU restart. -/
theorem resetStep_restart {s : State} (high : s.board.lines.resetLow = false)
    (long : ∀ n, s.board.resetFor = some n → 8 ≤ n) (kept : s.board.resetFor = none → s.board.destroyed = false) :
    s.resetStep = s.restart := by
  rw [State.resetStep, if_neg (by simp [high])]
  cases pulse : s.board.resetFor with
  | none => exact if_neg (by simp [kept pulse])
  | some n => exact if_neg (Nat.not_lt.2 (long n pulse))

theorem resetStep_scramble {s : State} {n : Nat} (high : s.board.lines.resetLow = false)
    (pulse : s.board.resetFor = some n) (short : n < 8) : s.resetStep = s.scramble := by
  rw [State.resetStep, if_neg (by simp [high]), pulse]
  exact if_pos short

/-- The registers and latches of the restart before its vector is read (R400). -/
def State.restartBegun (s : State) : State :=
  { a := Config.freeByte s.board.free
    b := Config.freeByte (s.board.free + 1)
    x := Config.freeWord s.board.free
    sp := Config.freeWord (s.board.free + 1)
    pc := s.pc
    cc := { h := Config.freeBit s.board.free, i := true, n := Config.freeBit (s.board.free + 1),
            z := Config.freeBit (s.board.free + 2), v := Config.freeBit (s.board.free + 3),
            c := Config.freeBit (s.board.free + 4) }
    run := .running
    haltIrq := false
    board := { s.board with nmiPending := false, resetFor := none, destroyed := false, free := s.board.free + 5 } }

theorem restart_eq (s : State) : s.restart = s.restartBegun.vector vectorRestart := rfl

theorem stores_restartBegun (s : State) : Stores [] s s.restartBegun := fun q => ⟨rfl, rfl, rfl, q⟩

theorem stores_restart (s : State) : Stores [] s s.restart :=
  (stores_restartBegun s).trans ((stores_read16 vectorRestart _).of_board rfl rfl)

/-- The restart loads pc with the word at its vector. -/
theorem restart_pc {s : State} (q : s.Quiet) (v : s.VectorReadable vectorRestart) :
    s.restart.pc = s.wordAt vectorRestart := by
  obtain ⟨m, m'⟩ := v
  exact (stores_restartBegun s).read16_wordAt q m m'

/-- The vector's bytes are memory, so the latch cleared at the start stays clear (decision D9). -/
theorem restart_nmiPending {s : State} (q : s.Quiet) (v : s.VectorReadable vectorRestart) :
    s.restart.board.nmiPending = false := by
  obtain ⟨m, m'⟩ := v
  have begun := stores_restartBegun s
  have high := begun.trans (stores_read8 vectorRestart _)
  calc s.restart.board.nmiPending
      = (s.restartBegun.read8 vectorRestart).2.board.nmiPending :=
        read8_nmiPending (high q).2.2.2 (high.isMemory q m')
    _ = s.restartBegun.board.nmiPending := read8_nmiPending (begun q).2.2.2 (begun.isMemory q m)
    _ = false := rfl

/-- Clocks out of their limits start the count of a Reset pulse again. -/
theorem event_clockLost_resetFor (b : Board) : (b.event .clockLost).resetFor = b.resetFor.map fun _ => 0 := rfl

/-- Settles O47, clause by clause. -/
theorem resetOverrides : Obligations.ResetOverrides := by
  intro s
  refine ⟨?enter, ?restart, ?short, rfl, ?clockLost⟩
  case enter =>
    intro run asked
    rw [step_resetAsked run asked]
    exact ⟨_, rfl, rfl, fun _ => rfl⟩
  case restart =>
    intro run high long kept
    rw [step_reset run, resetStep_restart (s := s.begin) high long kept]
    refine ⟨_, rfl, rfl, rfl, fun env v => ?_⟩
    have q : s.begin.Quiet := ⟨env, high, rfl⟩
    exact ⟨restart_pc q v, restart_nmiPending q v, ((stores_restart s.begin).kept q).1⟩
  case short =>
    intro n short run high pulse
    rw [step_reset run, resetStep_scramble (s := s.begin) high pulse short]
    exact ⟨_, rfl, fun _ => rfl⟩
  case clockLost =>
    intro n pulse
    rw [event_clockLost_resetFor, pulse]
    rfl

end Sys2Proof.Machine

namespace Sys2Proof.Machine

/-! ## The registers of a PIA (R341, R344 to R348) -/

section
variable {p : Pia}

theorem Pia.read_peripheralA (h : p.sideA.ctl.getLsbD 2 = true) :
    p.read 0 = (p.sideA.levelsA, { p with sideA := p.sideA.clearFlags.c2Fall }) := if_pos h

theorem Pia.read_peripheralB (h : p.sideB.ctl.getLsbD 2 = true) :
    p.read 2 = (p.sideB.levelsB, { p with sideB := p.sideB.clearFlags }) := if_pos h

theorem Pia.read_directionA (h : p.sideA.ctl.getLsbD 2 = false) : p.read 0 = (p.sideA.ddr, p) :=
  if_neg (Bool.eq_false_iff.1 h)

theorem Pia.read_directionB (h : p.sideB.ctl.getLsbD 2 = false) : p.read 2 = (p.sideB.ddr, p) :=
  if_neg (Bool.eq_false_iff.1 h)

theorem Pia.write_peripheralA (h : p.sideA.ctl.getLsbD 2 = true) (free v : Byte) :
    p.write free 0 v = { p with sideA := { p.sideA with out := v } } := if_pos h

theorem Pia.write_peripheralB (h : p.sideB.ctl.getLsbD 2 = true) (free v : Byte) :
    p.write free 2 v = { p with sideB := PiaSide.c2Fall { p.sideB with out := v } } := if_pos h

theorem Pia.write_directionA (h : p.sideA.ctl.getLsbD 2 = false) (free v : Byte) :
    p.write free 0 v = { p with sideA := { p.sideA with ddr := v } } := if_neg (Bool.eq_false_iff.1 h)

theorem Pia.write_directionB (h : p.sideB.ctl.getLsbD 2 = false) (free v : Byte) :
    p.write free 2 v = { p with sideB := { p.sideB with ddr := v } } := if_neg (Bool.eq_false_iff.1 h)

end

/-- The fall of C2 leaves all registers and the flags' enabling alone. -/
@[simp] theorem PiaSide.c2Fall_out (p : PiaSide) : p.c2Fall.out = p.out := by unfold PiaSide.c2Fall; split <;> rfl
@[simp] theorem PiaSide.c2Fall_ctl (p : PiaSide) : p.c2Fall.ctl = p.ctl := by unfold PiaSide.c2Fall; split <;> rfl
@[simp] theorem PiaSide.c2Fall_en1 (p : PiaSide) : p.c2Fall.en1 = p.en1 := by unfold PiaSide.c2Fall; split <;> rfl
@[simp] theorem PiaSide.c2Fall_en2 (p : PiaSide) : p.c2Fall.en2 = p.en2 := by unfold PiaSide.c2Fall; split <;> rfl

/-- A write of a control register stores bits 5 to 0 and keeps the flags (R348). -/
theorem PiaSide.writeCtl_bit (free v : Byte) (p : PiaSide) {k : Nat} (hk : k < 8) :
    (p.writeCtl free v).ctl.getLsbD k = if k < 6 then v.getLsbD k else p.ctl.getLsbD k := by
  have merged : (p.writeCtl free v).ctl = (p.ctl &&& 0xC0) ||| (v &&& 0x3F) := rfl
  rw [merged]
  split
  case isTrue low => exact controlMerge _ _ k low
  case isFalse =>
    obtain rfl | rfl : k = 6 ∨ k = 7 := by omega
    · simp
    · simp

/-- Through Peripheral Register A a pin reads as its level, an output that is not overloaded as its register bit (R345). -/
theorem PiaSide.levelsA_bit (p : PiaSide) {k : Nat} (hk : k < 8) :
    p.levelsA.getLsbD k =
      if p.ddr.getLsbD k && !p.loaded.getLsbD k then p.out.getLsbD k else p.pins.getLsbD k := by
  simp only [PiaSide.levelsA, BitVec.getLsbD_or, BitVec.getLsbD_and, BitVec.getLsbD_not, hk, decide_true, Bool.true_and]
  cases p.ddr.getLsbD k <;> cases p.loaded.getLsbD k <;> simp

/-- Through Peripheral Register B an input reads as its pin, an output as its register bit (R346). -/
theorem PiaSide.levelsB_bit (p : PiaSide) {k : Nat} (hk : k < 8) :
    p.levelsB.getLsbD k = if p.ddr.getLsbD k then p.out.getLsbD k else p.pins.getLsbD k := by
  simp only [PiaSide.levelsB, BitVec.getLsbD_or, BitVec.getLsbD_and, BitVec.getLsbD_not, hk, decide_true, Bool.true_and]
  cases p.ddr.getLsbD k <;> simp

/-- Settles O52: bit 2 of the control register decides what offsets 0 and 2 select. -/
theorem piaRegisters : Obligations.PiaRegisters := by
  intro p free v
  refine ⟨fun dirA => ⟨Pia.read_directionA dirA, Pia.write_directionA dirA free v⟩,
    fun dirB => ⟨Pia.read_directionB dirB, Pia.write_directionB dirB free v⟩, rfl, rfl,
    fun k hk => PiaSide.writeCtl_bit free v p.sideA hk, fun k hk => PiaSide.writeCtl_bit free v p.sideB hk,
    fun dataA => ?peripheralA, fun dataB => ?peripheralB⟩
  case peripheralA =>
    rw [Pia.write_peripheralA dataA, Pia.read_peripheralA dataA]
    exact ⟨rfl, rfl, fun k hk => p.sideA.levelsA_bit hk⟩
  case peripheralB =>
    rw [Pia.write_peripheralB dataB, Pia.read_peripheralB dataB]
    exact ⟨PiaSide.c2Fall_out _, PiaSide.c2Fall_ctl _, fun k hk => p.sideB.levelsB_bit hk⟩

/-! ## The interrupt flags of a PIA (R349 to R352) -/

/-- The change of C1 to `l` is the active transition, with the flag enabled and the edge network conditioned. -/
def PiaSide.Sets1 (l : Bool) (p : PiaSide) : Prop :=
  l ≠ p.c1 ∧ l = p.ctl.getLsbD 1 ∧ p.en1 = true ∧ p.cond1 = true

/-- The same for C2, which sets its flag as an input alone. -/
def PiaSide.Sets2 (l : Bool) (p : PiaSide) : Prop :=
  l ≠ p.c2 ∧ l = p.ctl.getLsbD 4 ∧ p.ctl.getLsbD 5 = false ∧ p.en2 = true ∧ p.cond2 = true

/-- What a level of C1 does to the control register and to C2 as an output. -/
theorem PiaSide.setC1_cases (l : Bool) (p : PiaSide) :
    (p.Sets1 l ∧ (p.setC1 l).ctl = p.ctl ||| 0x80 ∧
      (p.setC1 l).c2out = if p.handshake && !p.bit3 then true else p.c2out) ∨
    (¬p.Sets1 l ∧ (p.setC1 l).ctl = p.ctl ∧ (p.setC1 l).c2out = p.c2out) := by
  unfold PiaSide.setC1 PiaSide.Sets1
  split
  case isTrue same => exact .inr ⟨fun sets => sets.1 same, rfl, rfl⟩
  case isFalse changed =>
    dsimp only
    split
    case isTrue active =>
      simp only [Bool.and_eq_true, decide_eq_true_eq, and_assoc] at active
      exact .inl ⟨⟨changed, active⟩, rfl, rfl⟩
    case isFalse passive =>
      simp only [Bool.and_eq_true, decide_eq_true_eq, and_assoc] at passive
      exact .inr ⟨fun sets => passive sets.2, rfl, rfl⟩

/-- What a level of C2 does to the control register. -/
theorem PiaSide.setC2_cases (l : Bool) (p : PiaSide) :
    (p.Sets2 l ∧ (p.setC2 l).ctl = p.ctl ||| 0x40) ∨ (¬p.Sets2 l ∧ (p.setC2 l).ctl = p.ctl) := by
  unfold PiaSide.setC2 PiaSide.Sets2
  split
  case isTrue same => exact .inr ⟨fun sets => sets.1 same, rfl⟩
  case isFalse changed =>
    dsimp only
    split
    case isTrue active =>
      simp only [Bool.and_eq_true, Bool.not_eq_true', decide_eq_true_eq, and_assoc] at active
      obtain ⟨input, level, enabled⟩ := active
      exact .inl ⟨⟨changed, level, input, enabled⟩, rfl⟩
    case isFalse passive =>
      simp only [Bool.and_eq_true, Bool.not_eq_true', decide_eq_true_eq, and_assoc] at passive
      exact .inr ⟨fun ⟨_, level, input, enabled⟩ => passive ⟨input, level, enabled⟩, rfl⟩

theorem PiaSide.setC1_flag1 (l : Bool) (p : PiaSide) :
    (p.setC1 l).ctl.getLsbD 7 = true ↔ p.ctl.getLsbD 7 = true ∨ p.Sets1 l := by
  rcases p.setC1_cases l with ⟨sets, ctl, -⟩ | ⟨sets, ctl, -⟩ <;> simp [ctl, sets]

theorem PiaSide.setC2_flag2 (l : Bool) (p : PiaSide) :
    (p.setC2 l).ctl.getLsbD 6 = true ↔ p.ctl.getLsbD 6 = true ∨ p.Sets2 l := by
  rcases p.setC2_cases l with ⟨sets, ctl⟩ | ⟨sets, ctl⟩ <;> simp [ctl, sets]

/-- No level on a control line enables or disables a flag. -/
theorem PiaSide.setC1_enabled (l : Bool) (p : PiaSide) : (p.setC1 l).en1 = p.en1 ∧ (p.setC1 l).en2 = p.en2 := by
  unfold PiaSide.setC1
  split
  · exact ⟨rfl, rfl⟩
  · dsimp only
    split <;> exact ⟨rfl, rfl⟩

theorem PiaSide.setC2_enabled (l : Bool) (p : PiaSide) : (p.setC2 l).en1 = p.en1 ∧ (p.setC2 l).en2 = p.en2 := by
  unfold PiaSide.setC2
  split
  · exact ⟨rfl, rfl⟩
  · dsimp only
    split <;> exact ⟨rfl, rfl⟩

/-- Both interrupt flags of the side are 0 and not re-enabled (R351). -/
structure PiaSide.Unarmed (p : PiaSide) : Prop where
  flag1 : p.ctl.getLsbD 7 = false
  flag2 : p.ctl.getLsbD 6 = false
  en1 : p.en1 = false
  en2 : p.en2 = false

theorem PiaSide.unarmed_clearFlags (p : PiaSide) : p.clearFlags.Unarmed := by
  constructor <;> simp [PiaSide.clearFlags]

theorem PiaSide.clearFlags_bit (p : PiaSide) {k : Nat} (hk : k < 6) :
    p.clearFlags.ctl.getLsbD k = p.ctl.getLsbD k := (flagMasks p.ctl k hk).1

namespace PiaSide.Unarmed

variable {p : PiaSide} (h : p.Unarmed)
include h

theorem c2Fall : p.c2Fall.Unarmed := by
  obtain ⟨flag1, flag2, en1, en2⟩ := h
  constructor <;> simpa

/-- A level of C1 sets no flag that is not enabled. -/
theorem setC1 (l : Bool) : (p.setC1 l).Unarmed := by
  obtain ⟨flag1, flag2, en1, en2⟩ := h
  have ctl : (p.setC1 l).ctl = p.ctl := by
    rcases p.setC1_cases l with ⟨⟨-, -, enabled, -⟩, -⟩ | ⟨-, ctl, -⟩
    · simp [en1] at enabled
    · exact ctl
  obtain ⟨same1, same2⟩ := p.setC1_enabled l
  exact ⟨by rw [ctl, flag1], by rw [ctl, flag2], same1.trans en1, same2.trans en2⟩

theorem setC2 (l : Bool) : (p.setC2 l).Unarmed := by
  obtain ⟨flag1, flag2, en1, en2⟩ := h
  have ctl : (p.setC2 l).ctl = p.ctl := by
    rcases p.setC2_cases l with ⟨⟨-, -, -, enabled, -⟩, -⟩ | ⟨-, ctl⟩
    · simp [en2] at enabled
    · exact ctl
  obtain ⟨same1, same2⟩ := p.setC2_enabled l
  exact ⟨by rw [ctl, flag1], by rw [ctl, flag2], same1.trans en1, same2.trans en2⟩

/-- A pulse that selects the PIA enables nothing. -/
theorem ePulse_selected : (p.ePulse true).Unarmed := by
  obtain ⟨flag1, flag2, en1, en2⟩ := h
  constructor <;> simpa [PiaSide.ePulse]

theorem irqLow : p.irqLow = false := by
  simp only [PiaSide.irqLow, PiaSide.flag1, PiaSide.flag2, h.flag1, h.flag2, Bool.false_and, Bool.or_self]

end PiaSide.Unarmed

theorem PiaSide.irqLow_iff (p : PiaSide) :
    p.irqLow = true ↔ (p.ctl.getLsbD 7 = true ∧ p.ctl.getLsbD 0 = true) ∨
      (p.ctl.getLsbD 6 = true ∧ p.ctl.getLsbD 3 = true ∧ p.ctl.getLsbD 5 = false) := by
  simp [PiaSide.irqLow, PiaSide.flag1, PiaSide.flag2, PiaSide.c1Enable, PiaSide.bit3, PiaSide.c2IsOutput, and_assoc]

/-- A pulse that does not select the PIA enables both flags. -/
theorem PiaSide.ePulse_deselected (p : PiaSide) : (p.ePulse false).en1 = true ∧ (p.ePulse false).en2 = true := by
  simp [PiaSide.ePulse]

/-- Settles O53: a read of a peripheral register leaves its side with both flags 0 and not enabled. -/
theorem piaInterruptFlags : Obligations.PiaInterruptFlags := by
  intro p q l m
  refine ⟨p.setC1_flag1 l, p.setC2_flag2 l, p.irqLow_iff, ?_⟩
  intro served
  have serve {old new : PiaSide} (unarmed : new.Unarmed) (kept : ∀ k < 6, new.ctl.getLsbD k = old.ctl.getLsbD k) :
      served old new := by
    have after := ((unarmed.setC1 l).setC2 m).ePulse_selected
    exact ⟨unarmed.flag1, unarmed.flag2, kept, unarmed.irqLow, after.flag1, after.flag2, after.en1, after.en2,
      new.ePulse_deselected⟩
  refine ⟨fun dataA => ?readA, fun dataB => ?readB, fun dirA => ?directionA, fun dirB => ?directionB, rfl, rfl⟩
  case readA =>
    rw [Pia.read_peripheralA dataA]
    refine ⟨serve q.sideA.unarmed_clearFlags.c2Fall fun k hk => ?_, rfl⟩
    rw [PiaSide.c2Fall_ctl, PiaSide.clearFlags_bit _ hk]
  case readB =>
    rw [Pia.read_peripheralB dataB]
    exact ⟨serve q.sideB.unarmed_clearFlags fun k hk => PiaSide.clearFlags_bit _ hk, rfl⟩
  case directionA => rw [Pia.read_directionA dirA]
  case directionB => rw [Pia.read_directionB dirB]

/-! ## C2 as an output (R353, R354) -/

theorem PiaSide.handshake_iff (p : PiaSide) :
    p.handshake = true ↔ p.ctl.getLsbD 5 = true ∧ p.ctl.getLsbD 4 = false := by
  simp [PiaSide.handshake, PiaSide.c2IsOutput, PiaSide.bit4]

/-- Clearing the flags keeps the mode of C2. -/
theorem PiaSide.handshake_clearFlags (p : PiaSide) : p.clearFlags.handshake = p.handshake := by
  unfold PiaSide.handshake PiaSide.c2IsOutput PiaSide.bit4
  rw [PiaSide.clearFlags_bit p (by omega), PiaSide.clearFlags_bit p (by omega)]

theorem PiaSide.c2Fall_c2out {p : PiaSide} (h : p.handshake = true) : p.c2Fall.c2out = false := by
  rw [PiaSide.c2Fall, if_pos h]

/-- In modes 110 and 111 a write of the control register puts its bit 3 on the line. -/
theorem PiaSide.writeCtl_level {v : Byte} (output : v.getLsbD 5 = true) (follows : v.getLsbD 4 = true) (free : Byte)
    (p : PiaSide) : (p.writeCtl free v).c2out = v.getLsbD 3 := by
  simp only [PiaSide.writeCtl, output, follows, if_true]

/-- What an E pulse does to C2: in mode 101 a deselected one ends the strobe. -/
theorem PiaSide.ePulse_c2out {p : PiaSide} (h : p.handshake = true) (selected : Bool) :
    (p.ePulse selected).c2out = if p.ctl.getLsbD 3 && !selected then true else p.c2out := by
  simp only [PiaSide.ePulse, h, PiaSide.bit3, Bool.true_and]

/-- In mode 100 the active transition of C1 that sets flag 7 raises C2. -/
theorem PiaSide.setC1_c2out {p : PiaSide} {l : Bool} (h : p.handshake = true) (mode : p.ctl.getLsbD 3 = false)
    (sets : p.Sets1 l) : (p.setC1 l).c2out = true := by
  rcases p.setC1_cases l with ⟨-, -, raised⟩ | ⟨passive, -⟩
  · rw [raised, h, PiaSide.bit3, mode]
    rfl
  · exact absurd sets passive

/-- Settles O54: A falls on a read, B on a write; the modes say what raises the line. -/
theorem piaHandshakes : Obligations.PiaHandshakes := by
  intro p free v
  refine ⟨fun dataA output mode => ?sideA, fun dataB output mode => ?sideB,
    fun output follows => ⟨PiaSide.writeCtl_level output follows free _, PiaSide.writeCtl_level output follows free _⟩,
    fun q l output mode => ?rise⟩
  case sideA =>
    have handshake := p.sideA.handshake_clearFlags.trans (p.sideA.handshake_iff.2 ⟨output, mode⟩)
    rw [Pia.read_peripheralA dataA, Pia.write_peripheralA dataA]
    exact ⟨PiaSide.c2Fall_c2out handshake, rfl⟩
  case sideB =>
    have handshake : ({ p.sideB with out := v } : PiaSide).handshake = true :=
      p.sideB.handshake_iff.2 ⟨output, mode⟩
    rw [Pia.read_peripheralB dataB, Pia.write_peripheralB dataB]
    exact ⟨PiaSide.c2Fall_c2out handshake, rfl⟩
  case rise =>
    have handshake := q.handshake_iff.2 ⟨output, mode⟩
    refine ⟨fun mode changed level enabled conditioned =>
      PiaSide.setC1_c2out handshake mode ⟨changed, level, enabled, conditioned⟩, fun strobe => ?_, fun noStrobe => ?_⟩
    · rw [PiaSide.ePulse_c2out handshake, PiaSide.ePulse_c2out handshake, strobe]
      exact ⟨rfl, rfl⟩
    · rw [PiaSide.ePulse_c2out handshake, noStrobe]
      rfl

/-! ## A low Reset pin (R343, R403; log 39, log 48) -/

theorem Pia.heldClear_iff (low : Bool) (p : Pia) :
    p.heldClear low = true ↔ ((if p.resetWired then low else p.resetLow) = true → p.cleared = true) := by
  unfold Pia.heldClear
  cases (if p.resetWired then low else p.resetLow) <;> simp

/-- The registers of a cleared PIA hold no flag, so its outputs are inactive. -/
theorem Pia.irqLow_of_cleared {p : Pia} (h : p.cleared = true) : p.sideA.irqLow = false ∧ p.sideB.irqLow = false := by
  obtain ⟨-, -, ctlA, -, -, ctlB⟩ := of_decide_eq_true h
  simp [PiaSide.irqLow, PiaSide.flag1, PiaSide.flag2, ctlA, ctlB]

/-- Settling moves no Reset pin. -/
theorem Pia.settle_pin (low : Bool) (p : Pia) :
    (p.settle low).resetWired = p.resetWired ∧ (p.settle low).resetLow = p.resetLow := by
  unfold Pia.settle
  split <;> exact ⟨rfl, rfl⟩

/-- Every PIA whose Reset pin is low is cleared. -/
def Board.HeldClear (b : Board) : Prop := b.pias.all (Pia.heldClear b.lines.resetLow) = true

theorem Board.HeldClear.zeroed {b : Board} (h : b.HeldClear) {p : Pia} (hp : p ∈ b.pias)
    (low : (if p.resetWired then b.lines.resetLow else p.resetLow) = true) :
    p.cleared = true ∧ p.sideA.irqLow = false ∧ p.sideB.irqLow = false := by
  have cleared := (p.heldClear_iff _).1 (List.all_eq_true.1 h p hp) low
  exact ⟨cleared, Pia.irqLow_of_cleared cleared⟩

/-- After any event, whatever stood in the registers before it. -/
theorem Board.heldClear_event (b : Board) (e : EnvEvent) : (b.event e).HeldClear := by
  have settled : ∀ p ∈ (b.apply e).pias.map (Pia.settle (b.apply e).lines.resetLow),
      p.heldClear (b.apply e).lines.resetLow = true := by
    simp only [List.forall_mem_map]
    exact fun p _ => Pia.heldClear_settle _ p
  exact List.all_eq_true.2 settled

/-- The E pulse at the start of a machine cycle is settled too. -/
theorem Board.heldClear_cycle (sel : Option Nat) (b : Board) : (b.cycle sel).HeldClear := by
  refine List.all_eq_true.2 fun p hp => ?_
  obtain ⟨n, -, rfl⟩ := List.mem_mapIdx.1 hp
  exact Pia.heldClear_settle _ _

/-- What comes after the E pulse keeps the PIAs settled. -/
theorem Board.heldClear_busRead (a : Addr) (b : Board) : (b.busRead a).2.HeldClear := by
  have begun := b.heldClear_cycle (b.map.piaAt a.toNat)
  unfold Board.busRead
  dsimp only
  split
  · exact begun
  · exact (Board.keeps_accessRead a _).held begun

theorem Board.heldClear_busWrite (a : Addr) (v : Byte) (b : Board) : (b.busWrite a v).HeldClear := by
  have begun := b.heldClear_cycle (b.map.piaAt a.toNat)
  unfold Board.busWrite
  dsimp only
  split
  · exact begun
  · exact (Board.keeps_accessWrite a v _).held begun

theorem Board.heldClear_idle (x : BusCycle) (b : Board) : (b.idle x).HeldClear := b.heldClear_cycle none

/-- The environment's event puts the Reset pin of that PIA low. -/
theorem Board.event_piaReset_pin {b : Board} {n : Nat} {p : Pia} (h : (b.event (.piaReset n true)).pias[n]? = some p) :
    p.resetLow = true := by
  have pias : (b.event (.piaReset n true)).pias =
      (b.pias.modify n (Pia.setReset true)).map (Pia.settle b.lines.resetLow) := rfl
  rw [pias, List.getElem?_map, List.getElem?_modify_eq] at h
  obtain ⟨driven, hd, rfl⟩ := Option.map_eq_some_iff.1 h
  obtain ⟨old, -, rfl⟩ := Option.map_eq_some_iff.1 hd
  exact (Pia.settle_pin _ _).2

/-- Settles O55: every event and every machine cycle leaves the PIAs settled. -/
theorem systemResetZeroesPias : Obligations.SystemResetZeroesPias := by
  intro b
  refine ⟨fun p hp wired => ?system, rfl, rfl, fun n p hp own => ?ownPin, fun n => ⟨rfl, rfl⟩,
    fun a v x c hc p hp low => ?cycles⟩
  case system => exact (b.heldClear_event _).zeroed hp (by rw [wired]; rfl)
  case ownPin =>
    refine (b.heldClear_event _).zeroed (List.mem_of_getElem? hp) ?_
    rw [own]
    exact Board.event_piaReset_pin hp
  case cycles =>
    have held : c.HeldClear := by
      simp only [List.mem_cons, List.not_mem_nil, or_false] at hc
      obtain rfl | rfl | rfl := hc
      · exact b.heldClear_busRead a
      · exact b.heldClear_busWrite a v
      · exact b.heldClear_idle x
    exact held.zeroed hp low

end Sys2Proof.Machine

namespace Sys2Proof.Machine

/-! ## The status byte of an ACIA (R367 to R371, R375) -/

/-- Eight bits packed into a byte, each at its place. -/
theorem Acia.packBits_bits (b7 b6 b5 b4 b3 b2 b1 b0 : Bool) :
    let v := Acia.packBits b7 b6 b5 b4 b3 b2 b1 b0
    v.getLsbD 0 = b0 ∧ v.getLsbD 1 = b1 ∧ v.getLsbD 2 = b2 ∧ v.getLsbD 3 = b3 ∧ v.getLsbD 4 = b4 ∧
      v.getLsbD 5 = b5 ∧ v.getLsbD 6 = b6 ∧ v.getLsbD 7 = b7 := by
  revert b7 b6 b5 b4 b3 b2 b1 b0
  decide

/-- The status register, bit by bit. -/
theorem Acia.status_bits (p : Acia) :
    p.status.getLsbD 0 = p.rdrfBit ∧ p.status.getLsbD 1 = p.tdreBit ∧ p.status.getLsbD 2 = p.dcdBit ∧
      p.status.getLsbD 3 = p.cts ∧ p.status.getLsbD 4 = p.fe ∧ p.status.getLsbD 5 = p.ovrn ∧
      p.status.getLsbD 6 = p.pe ∧ p.status.getLsbD 7 = p.irqLow :=
  Acia.packBits_bits p.irqLow p.pe p.ovrn p.fe p.cts p.dcdBit p.tdreBit p.rdrfBit

/-- What a read of the status register arms (R367). -/
def Acia.armed (p : Acia) : Acia :=
  { p with ovrnArmed := p.ovrnArmed || p.ovrnInt, dcdArmed := p.dcdArmed || p.dcdLatch }

/-- Released from power-on, the chip answers its status at offset 0. -/
theorem Acia.read_status {p : Acia} (released : p.held = false) (free : Byte) : p.read free 0 = (p.status, p.armed) :=
  if_neg (Bool.eq_false_iff.1 released)

/-- Arming changes no status bit. -/
@[simp] theorem Acia.status_armed (p : Acia) : p.armed.status = p.status := rfl

/-- The IRQ output of a chip released from power-on (R375). -/
theorem Acia.irqLow_released {p : Acia} (released : p.held = false) :
    p.irqLow = ((p.transmitIrqOn && p.tdreBit) || (p.receiveIrqOn && (p.rdrfBit || p.ovrnInt || p.dcdLatch))) := by
  rw [Acia.irqLow, released]
  rfl

/-- Released, the chip is in the reset condition exactly while the master reset is selected. -/
theorem Acia.tdreBit_released {p : Acia} (released : p.held = false) :
    p.tdreBit = (p.tdre && !p.cts && !(p.ctl.getLsbD 1 && p.ctl.getLsbD 0)) := by
  rw [Acia.tdreBit, Acia.inReset, released]
  rfl

/-- Settles O56: the byte read at offset 0 is the status, whose bits are the model's. -/
theorem aciaStatusByte : Obligations.AciaStatusByte := by
  intro p free released
  rw [Acia.read_status released free]
  obtain ⟨b0, b1, b2, b3, b4, b5, b6, b7⟩ := p.status_bits
  refine ⟨b0, ?tdre, b2, b3, b4, b5, b6, ?irq, b7.symm, p.status_armed⟩
  case tdre => exact b1.trans (Acia.tdreBit_released released)
  case irq =>
    show p.status.getLsbD 7 = _
    rw [b7, Acia.irqLow_released released, Acia.tdreBit_released released]
    rfl

/-! ## The master reset (R362, R363, U13) -/

/-- Both low bits of a control byte are ones: the write is a master reset. -/
theorem Acia.write_masterReset {v : Byte} (high : v.getLsbD 1 = true) (low : v.getLsbD 0 = true) (p : Acia) :
    p.write 0 v = Acia.masterReset { p with ctl := v } :=
  if_pos (by rw [Acia.masterResetSelected, high, low]; rfl)

/-- A control byte with a divide ratio is stored and does no more. -/
theorem Acia.write_ratio {w : Byte} (ratio : (w.getLsbD 1 && w.getLsbD 0) = false) (p : Acia) :
    p.write 0 w = { p with ctl := w } :=
  if_neg (Bool.eq_false_iff.1 ratio)

/-- While the master reset stays selected TDRE reads 0 and nothing asks for an interrupt (log 27). -/
theorem Acia.masterReset_inactive {p : Acia} (selected : Acia.masterResetSelected p.ctl = true) :
    p.masterReset.tdreBit = false ∧ p.masterReset.irqLow = false := by
  have tdre : p.masterReset.tdreBit = false := by
    simp [Acia.tdreBit, Acia.inReset, Acia.masterReset, selected]
  refine ⟨tdre, ?_⟩
  rw [Acia.irqLow_released rfl, tdre]
  simp [Acia.masterReset, Acia.rdrfBit]

/-- Settles O57: after the master reset only the inputs CTS and DCD show in the status. -/
theorem aciaMasterReset : Obligations.AciaMasterReset := by
  intro p v w free high low ratio
  have selected : Acia.masterResetSelected v = true := by rw [Acia.masterResetSelected, high, low]; rfl
  obtain ⟨tdre, irq⟩ := Acia.masterReset_inactive (p := { p with ctl := v }) selected
  obtain ⟨b0, b1, b2, b3, b4, b5, b6, b7⟩ := (Acia.masterReset { p with ctl := v }).status_bits
  dsimp only
  rw [Acia.write_masterReset high low p, Acia.read_status rfl]
  refine ⟨rfl, rfl, rfl, rfl, rfl, fun k hk not2 not3 => ?cleared, b2, b3, ?empty⟩
  case cleared =>
    obtain rfl | rfl | rfl | rfl | rfl | rfl : k = 0 ∨ k = 1 ∨ k = 4 ∨ k = 5 ∨ k = 6 ∨ k = 7 := by omega
    · exact b0
    · exact b1.trans tdre
    · exact b4
    · exact b5
    · exact b6
    · exact b7.trans irq
  case empty =>
    rw [Acia.write_ratio ratio, Acia.read_status rfl, (Acia.status_bits _).2.1, Acia.tdreBit_released rfl]
    show (true && !p.cts && !(w.getLsbD 1 && w.getLsbD 0)) = !p.cts
    rw [ratio, Bool.true_and, Bool.not_false, Bool.and_true]

/-! ## The receiver (R364, R372, R374, R377) -/

/-- The data bits of the present word length (R364). -/
theorem Acia.stripped_eq (p : Acia) (v : Byte) : p.stripped v = if p.ctl.getLsbD 4 then v else v &&& 0x7F := by
  unfold Acia.stripped Acia.sevenBits
  cases p.ctl.getLsbD 4 <;> rfl

/-- Data bits have nothing more to be stripped of. -/
theorem Acia.stripped_stripped (p : Acia) (v : Byte) : p.stripped (p.stripped v) = p.stripped v := by
  unfold Acia.stripped
  split
  · rw [BitVec.and_assoc, BitVec.and_self]
  · rfl

/-- A character received by an active receiver whose data register is empty (R372, R377). -/
theorem Acia.receive_empty {p : Acia} (active : p.inReset = false) (carrier : p.dcd = false) (empty : p.rdrf = false)
    (v : Byte) (fe pe : Bool) :
    p.receive v fe pe =
      { p with rsr := p.stripped v, rdr := p.stripped v, rdrf := true, fe := fe, pe := pe && p.parityOn } := by
  simp only [Acia.receive, active, carrier, empty, Bool.or_self, Bool.false_eq_true, if_false]

/-- A character received while the last is unread is lost (R372). -/
theorem Acia.receive_full {p : Acia} (active : p.inReset = false) (carrier : p.dcd = false) (full : p.rdrf = true)
    (v : Byte) (fe pe : Bool) :
    p.receive v fe pe =
      { p with rsr := p.stripped v, ovrnPending := p.ovrnPending || !p.ovrn, ovrnInt := true,
               ovrnArmed := p.ovrnArmed && p.ovrnInt } := by
  simp only [Acia.receive, active, carrier, full, Bool.or_self, Bool.false_eq_true, if_false, if_true]

/-- Without a carrier nothing is received (R370). -/
theorem Acia.receive_noCarrier {p : Acia} (lost : p.dcd = true) (v : Byte) (fe pe : Bool) : p.receive v fe pe = p :=
  if_pos (by rw [lost, Bool.or_true])

/-- A read of the data register returns the data bits, whatever it does to the status (R374). -/
theorem Acia.read_data_value (p : Acia) (free : Byte) : (p.read free 1).1 = p.stripped p.rdr := rfl

/-- With no overrun recorded a read of the data register clears RDRF and OVRN. -/
theorem Acia.read_data_clears {p : Acia} (unrecorded : p.ovrnPending = false) (free : Byte) :
    (p.read free 1).2 = { p.clearArmed with rdrf := false, ovrn := false } :=
  if_neg (Bool.eq_false_iff.1 unrecorded)

/-- With an overrun recorded it shows OVRN and keeps RDRF (log 29). -/
theorem Acia.read_data_shows {p : Acia} (recorded : p.ovrnPending = true) (free : Byte) :
    (p.read free 1).2 = { p.clearArmed with ovrn := true, ovrnPending := false } := if_pos recorded

/-! ## The loss of the carrier (R370, log 46, log 53) -/

/-- A read of the data register moves no input and clears the DCD condition if it is armed. -/
theorem Acia.read_data_dcd (p : Acia) (free : Byte) :
    (p.read free 1).2.held = p.held ∧ (p.read free 1).2.dcd = p.dcd ∧
      (p.read free 1).2.dcdLatch = (p.dcdLatch && !p.dcdArmed) := by
  cases overrun : p.ovrnPending with
  | false => rw [Acia.read_data_clears overrun]; exact ⟨rfl, rfl, rfl⟩
  | true => rw [Acia.read_data_shows overrun]; exact ⟨rfl, rfl, rfl⟩

/-- A status read and then a data read clear the DCD condition and leave the input. -/
theorem Acia.read_status_data {p : Acia} (released : p.held = false) (free : Byte) :
    ((p.read free 0).2.read free 1).2.held = false ∧ ((p.read free 0).2.read free 1).2.dcd = p.dcd ∧
      ((p.read free 0).2.read free 1).2.dcdLatch = false := by
  rw [Acia.read_status released]
  obtain ⟨held, dcd, latch⟩ := p.armed.read_data_dcd free
  refine ⟨held.trans released, dcd, latch.trans ?_⟩
  show (p.dcdLatch && !(p.dcdArmed || p.dcdLatch)) = false
  cases p.dcdLatch <;> simp

/-- Status bit 2 is the condition or the input (R370). -/
theorem Acia.read_status_dcd {p : Acia} (released : p.held = false) (free : Byte) :
    (p.read free 0).1.getLsbD 2 = (p.dcdLatch || p.dcd) := by
  obtain ⟨-, -, b2, -⟩ := p.status_bits
  rw [Acia.read_status released]
  exact b2

/-- A rise of DCD initialises the receiver and latches the condition, which no status read has armed yet. -/
theorem Acia.setDcd_rise {p : Acia} (low : p.dcd = false) (free : Bool) :
    p.setDcd free true = { p.initReceiver with dcd := true, dcdLatch := true, dcdArmed := false } := by
  rw [Acia.setDcd, if_neg (by simp [low]), if_pos rfl]

/-- A fall of DCD leaves the condition latched as it is. -/
theorem Acia.setDcd_fall {p : Acia} (high : p.dcd = true) (free : Bool) :
    (p.setDcd free false).held = p.held ∧ (p.setDcd free false).dcd = false ∧
      (p.setDcd free false).dcdLatch = p.dcdLatch ∧ (p.setDcd free false).dcdArmed = p.dcdArmed := by
  rw [Acia.setDcd, if_neg (by simp [high]), if_neg (by simp)]
  exact ⟨rfl, rfl, rfl, rfl⟩

/-- A DCD condition interrupts if the receive interrupts are enabled (R375). -/
theorem Acia.irqLow_of_dcdLatch {p : Acia} (released : p.held = false) (enabled : p.ctl.getLsbD 7 = true)
    (latched : p.dcdLatch = true) : p.irqLow = true := by
  rw [Acia.irqLow_released released, Acia.receiveIrqOn, enabled, latched]
  simp

/-- Out of the reset condition the chip has been released from power-on. -/
theorem Acia.held_of_active {p : Acia} (active : p.inReset = false) : p.held = false :=
  (Bool.or_eq_false_iff.1 active).1

/-- Settles O58: two characters in a row, and the rise and fall of DCD. -/
theorem aciaReceiver : Obligations.AciaReceiver := by
  intro p u v free free' fe pe fe' pe' keep keep' active carrier
  refine ⟨fun empty noPending noOverrun => ?overrun, ?carrier⟩
  case overrun =>
    intro one two char
    have first : one = _ := Acia.receive_empty active carrier empty u fe pe
    have second : two = _ := Acia.receive_full (p := one) (by rw [first]; exact active) (by rw [first]; exact carrier)
      (by rw [first]) v fe' pe'
    have recorded : two.ovrnPending = true := by simp [second, first, noOverrun]
    have value : p.stripped (p.stripped u) = char := by rw [Acia.stripped_stripped, Acia.stripped_eq]
    have readOne := Acia.read_data_clears (p := one) (by rw [first]; exact noPending) free
    have readTwo := Acia.read_data_shows recorded free
    have again := Acia.read_data_clears (p := (two.read free 1).2) (by rw [readTwo]) free
    rw [again, readTwo, readOne]
    refine ⟨by rw [first], by rw [first], by rw [first]; rfl, ?_, rfl, rfl, ?_, ?_, rfl, ?_, rfl, rfl⟩
    · rw [Acia.read_data_value, first]
      exact value
    · rw [second, first]
      exact noOverrun
    · rw [Acia.read_data_value, second, first]
      exact value
    · rw [second, first]
      rfl
  case carrier =>
    intro lost back cleared
    have clearing {q : Acia} (released : q.held = false) :
        (cleared q).held = false ∧ (cleared q).dcd = q.dcd ∧ (cleared q).dcdLatch = false :=
      Acia.read_status_data released free
    have risen : lost = _ := Acia.setDcd_rise carrier keep
    have lostReleased : lost.held = false := by rw [risen]; exact Acia.held_of_active active
    have high : lost.dcd = true := by rw [risen]
    have latched : lost.dcdLatch = true := by rw [risen]
    have unarmed : lost.dcdArmed = false := by rw [risen]
    obtain ⟨backReleased, backLow, backLatched, backUnarmed⟩ := Acia.setDcd_fall high keep'
    obtain ⟨clearedReleased, clearedInput, clearedLatch⟩ := clearing lostReleased
    obtain ⟨againReleased, againLow, againLatch, -⟩ := Acia.setDcd_fall (clearedInput.trans high) keep'
    obtain ⟨clearedBackReleased, clearedBackInput, clearedBackLatch⟩ := clearing (backReleased.trans lostReleased)
    obtain ⟨dataReleased, dataInput, dataLatch⟩ := back.read_data_dcd free
    obtain ⟨bit0, -, -, -, -, -, -, bit7⟩ := lost.status_bits
    refine ⟨by rw [risen]; rfl, by rw [risen]; rfl, by rw [risen]; rfl, Acia.receive_noCarrier high u fe pe, ?empty,
      ?shown, fun enabled => ?interrupts, ?stays, ?dataAlone, ?input, clearedLatch, ?follows, ?clearedBack⟩
    case empty => rw [Acia.read_status lostReleased, bit0, Acia.rdrfBit, high, Bool.not_true, Bool.and_false]
    case shown => rw [Acia.read_status_dcd lostReleased, high, Bool.or_true]
    case interrupts =>
      rw [Acia.read_status lostReleased, bit7]
      exact Acia.irqLow_of_dcdLatch lostReleased (by rw [risen]; exact enabled) latched
    case stays => rw [Acia.read_status_dcd (backReleased.trans lostReleased), backLatched, latched, Bool.true_or]
    case dataAlone =>
      rw [Acia.read_status_dcd (dataReleased.trans (backReleased.trans lostReleased)), dataLatch, backLatched, latched,
        backUnarmed, unarmed]
      rfl
    case input => rw [Acia.read_status_dcd clearedReleased, clearedInput, high, Bool.or_true]
    case follows =>
      rw [Acia.read_status_dcd (againReleased.trans clearedReleased), againLatch, clearedLatch, againLow, Bool.or_self]
    case clearedBack =>
      rw [Acia.read_status_dcd clearedBackReleased, clearedBackLatch, clearedBackInput, backLow, Bool.or_self]

/-! ## The transmitter (R364, R369, R373, R376) -/

theorem Acia.write_data (p : Acia) (v : Byte) : p.write 1 v = { p with tdr := v, tdre := false } := rfl

/-- The idle transmitter takes the waiting character. -/
theorem Acia.take_idle {p : Acia} (active : p.inReset = false) (waiting : p.tdre = false) (idle : p.tsr = none) :
    p.take = { p with tsr := some (p.stripped p.tdr), tdre := true } := by
  simp [Acia.take, active, waiting, idle]

/-- A transmitter that is sending takes nothing. -/
theorem Acia.take_busy {p : Acia} {c : Byte} (busy : p.tsr = some c) : p.take = p := by
  simp [Acia.take, busy]

/-- When a character is complete the waiting one follows. -/
theorem Acia.sent_waiting {p : Acia} (active : p.inReset = false) (waiting : p.tdre = false) :
    p.sent = { p with tsr := some (p.stripped p.tdr), tdre := true } :=
  Acia.take_idle (p := { p with tsr := none }) active waiting rfl

theorem bitNat_xor (b c : Bool) : bitNat (b ^^ c) = (bitNat b + bitNat c) % 2 := by
  cases b <;> cases c <;> rfl

/-- An exclusive or along a list is the parity of the number of its ones. -/
theorem bitNat_foldl_xor (f : Nat → Bool) (l : List Nat) (b : Bool) :
    bitNat (l.foldl (fun odd k => odd ^^ f k) b) = (l.countP f + bitNat b) % 2 := by
  induction l generalizing b with
  | nil => cases b <;> rfl
  | cons k rest ih =>
    rw [List.foldl_cons, ih, bitNat_xor, List.countP_cons]
    cases f k <;> simp [bitNat]; omega

theorem Acia.bitNat_onesOdd (v : Byte) :
    bitNat (Acia.onesOdd v) = (List.range 8).countP (fun k => v.getLsbD k) % 2 :=
  bitNat_foldl_xor (fun k => v.getLsbD k) (List.range 8) false

/-- The codes 100 and 101 of the word select alone have no parity bit (R364). -/
theorem Acia.parityBit_eq_none (p : Acia) (v : Byte) :
    p.parityBit v = none ↔ p.ctl.getLsbD 4 = true ∧ p.ctl.getLsbD 3 = false := by
  unfold Acia.parityBit Acia.parityOn
  cases p.ctl.getLsbD 4 <;> cases p.ctl.getLsbD 3 <;> simp

/-- The parity bit makes the number of ones odd or even, as CR2 selects (R364, R376). -/
theorem Acia.parityBit_parity {p : Acia} {v : Byte} {bit : Bool} (h : p.parityBit v = some bit) :
    ((List.range 8).countP (fun k => (p.stripped v).getLsbD k) + bitNat bit) % 2 = bitNat (p.ctl.getLsbD 2) := by
  unfold Acia.parityBit Acia.oddParity at h
  split at h
  case isTrue on =>
    cases h
    have ones := Acia.bitNat_onesOdd (p.stripped v)
    rw [on, Bool.true_and, bitNat_xor]
    cases p.ctl.getLsbD 2 <;> simp [bitNat] at ones ⊢ <;> omega
  case isFalse => cases h

/-- Settles O59: the transmitter is idle, then sends the first character while another waits. -/
theorem aciaTransmit : Obligations.AciaTransmit := by
  intro p u v w active idle one sending waiting char
  have taken : sending = _ := Acia.take_idle (p := one) active rfl idle
  have sendingCtl : sending.ctl = p.ctl := by rw [taken]; rfl
  have sendingActive : sending.inReset = false := by rw [taken]; exact active
  have stripped (c : Byte) : sending.stripped c = char c := by rw [Acia.stripped_eq, sendingCtl]
  have busy : sending.tsr = some (char u) := by
    rw [taken]
    exact congrArg some (p.stripped_eq u)
  have follows (c : Byte) : (sending.write 1 c).sent.tsr = some (char c) ∧ (sending.write 1 c).sent.tdre = true := by
    rw [Acia.sent_waiting (p := sending.write 1 c) sendingActive rfl]
    exact ⟨congrArg some (stripped c), rfl⟩
  refine ⟨rfl, busy, by rw [taken], rfl, Acia.take_busy (p := waiting) busy, (follows v).1, (follows v).2, (follows w).1,
    sending.parityBit (char u), ?sent, ?noParity, fun bit made => ?parity⟩
  case sent => rw [Acia.sending, busy]; rfl
  case noParity => rw [Acia.parityBit_eq_none, sendingCtl]
  case parity =>
    have parity := Acia.parityBit_parity made
    rwa [← stripped, Acia.stripped_stripped, stripped, sendingCtl] at parity

end Sys2Proof.Machine
